-- ==== Sys2Proof/Word.lean ====
section
/-! DEFINITION. The widths of the block's values: bytes, coordinates, the 40-bit event word (R1, R7, R47). -/

namespace Sys2Proof

/-- A byte: 8 bits, bit 0 the least significant (R7). `+` and `-` on bytes wrap modulo 256. -/
abbrev Byte := BitVec 8

/-- A pointer coordinate as the event word carries it, `0` to `4095` (R50). -/
abbrev Coord := BitVec 12

/-- A stored absolute coordinate register (R20). -/
abbrev Word16 := BitVec 16

/-- An event word (R47). -/
abbrev EventWord := BitVec 40

/-- The six key slots, slot 0 first (R16). -/
abbrev Slots := Vector Byte 6

/-- The packet buffer `pkt[0..13]` (R22). -/
abbrev PktBuf := Vector Byte 14

end Sys2Proof
end

