-- ==== Sys2Proof/Config.lean ====
section
/-! DEFINITION. What is fixed when the block is built (R2 to R5, R29), the input ports (R13), and the free values:
constants without a body, which stand for what the spec leaves to the environment or gives no value for. -/

namespace Sys2Proof

/-- A modifier index of `MODMAP` (R5): 0 CTRL, 1 SHIFT, 2 ALT, 3 GUI. -/
inductive Modifier where
  | ctrl
  | shift
  | alt
  | gui
deriving DecidableEq, Repr

/-- One row of a `KEYMAP` table: the keycodes `first` to `last` map to `usage`, `usage + 1`, and so on (R68's
contiguous ranges; an explicit entry is a range of one keycode). -/
structure KeyRange where
  first : Byte
  last : Byte
  usage : Byte
deriving DecidableEq, Repr

/-- The block's configuration (R2 to R5). It is fixed when the block is built; no event and no edge changes it (R29).
`KEYMAP(kc, r)` is held as two tables, one for each value of the right-side flag, and `MODMAP(kc)` as one, so that every
total function of R5 is one of these and the configuration stays plain data. -/
structure Config where
  /-- `SCROLL_SENS` (R2). -/
  scrollSens : Byte
  /-- `T_REPLY`, in clock cycles (R3). -/
  tReply : Nat
  /-- `OOB_GUARD` (R4). -/
  oobGuard : Bool
  /-- `KEYMAP(·, 0)` (R5). -/
  keymapLeft : List KeyRange
  /-- `KEYMAP(·, 1)` (R5). -/
  keymapRight : List KeyRange
  /-- `MODMAP` (R5). -/
  modmap : List (Byte × Modifier)
deriving DecidableEq, Repr

/-- The input ports as one rising edge of `clk` samples them (R13). One step of the model is one such edge. -/
structure Pins where
  rst : Bool
  teardown : Bool
  linkUp : Bool
  evtValid : Bool
  evtData : EventWord
  txReady : Bool
  rxValid : Bool
  rxData : Byte
deriving DecidableEq, Repr, Inhabited

/-- FREE VALUE (log entry 2): the input pins at the `n`-th edge when the state's script of inputs is used up. The
environment drives them (R10), so nothing constrains them. -/
opaque Config.freePins : Nat → Pins

/-- FREE VALUE (log entry 5): what `pkt[tx_idx]` reads where `tx_idx` is past the 14 bytes of the buffer. No
reachable state has such an index. -/
opaque Config.freeTxByte : BitVec 4 → Byte

/-- FREE VALUE (log entry 6): what `pend_timer - 1` leaves where `pend_timer` is 0 in WAIT, as a function of
`T_REPLY`, which fixes the register's width (R24). No reachable state has it. -/
opaque Config.freeTimer : Nat → Nat

end Sys2Proof
end

