-- ==== Sys2Proof/Syntax.lean ====
section
/-! DEFINITION. The rows of the opcode table: eight event words (R48), four command packets (R59), two reply
frames (R62). -/

namespace Sys2Proof

/-- One constructor per row of the opcode table.

An event word's operands are the fields of its format (R49 to R53). A command packet's operands are all its bytes
after the five that select it (command and length), so that no byte of a packet is lost: the constant bytes and the
checksum are operands too, and `Instr.wellFormed` says what they must be (R91, R94 to R97). A reply frame's payload is
counted and not stored by the block (R105), so its operands are the reply code's low six bits, the length byte, the sum
of the payload bytes and the checksum byte: what the parser's registers keep of it (R26). -/
inductive Instr where
  /-- KEYDOWN (R69): `kc` the platform keycode, `r` the right-side flag. -/
  | keydown (kc : Byte) (r : Bool)
  /-- KEYUP (R72). -/
  | keyup (kc : Byte) (r : Bool)
  /-- MOVEA (R79): an absolute move; `out` is 1 when the pointer is outside the capture area. -/
  | movea (x y : Coord) (out : Bool)
  /-- MOVER (R80): a relative move; `dx`, `dy` are two's complement. -/
  | mover (dx dy : Byte) (out : Bool)
  /-- BTNDOWN (R81). -/
  | btndown (btn : Byte)
  /-- BTNUP (R82). -/
  | btnup (btn : Byte)
  /-- SCROLL (R83): `t` is two's complement. -/
  | scroll (t : Byte)
  /-- RESET (R87). -/
  | reset
  /-- PKT_KBD (R94): modifier byte, reserved byte, six slots, checksum. -/
  | pktKbd (mod rsv : Byte) (slots : Slots) (cks : Byte)
  /-- PKT_ABS (R95): mode byte, buttons, coordinates, scroll byte, checksum. -/
  | pktAbs (mode btn : Byte) (x y : Word16) (scr cks : Byte)
  /-- PKT_REL (R96): mode byte, buttons, the two delta bytes as sent, wheel byte, checksum. -/
  | pktRel (mode btn dx dy w cks : Byte)
  /-- PKT_RST (R97): checksum only. -/
  | pktRst (cks : Byte)
  /-- REPLY_OK (R62, R109): code `0x80 | cmd`. -/
  | replyOk (cmd : BitVec 6) (len paySum cks : Byte)
  /-- REPLY_ERR (R62, R109): code `0xC0 | cmd`. -/
  | replyErr (cmd : BitVec 6) (len paySum cks : Byte)
deriving DecidableEq, Repr

end Sys2Proof
end

