-- ==== Sys2Proof/Machine/Framer.lean ====
section
/-! DEFINITION. The packet framer's arithmetic and layouts: the additive checksum (R91, R92), the delta remap (R98),
and the bytes of each packet and reply frame (R58, R59, R61, R94 to R97). -/

namespace Sys2Proof.Machine

/-- The sync header `HDR` (R6). -/
def hdr : List Byte := [0x57, 0xAB, 0x00]

/-- The sum of the bytes modulo 256, starting from 0, no carry folded back and no complement (R91). -/
def checksum (bytes : List Byte) : Byte := bytes.foldl (· + ·) 0

/-- Checksum verification of a whole byte sequence (R92): its last byte is the checksum of those before it. The empty
sequence has no last byte and does not pass. -/
def passesChecksum (p : List Byte) : Bool :=
  match p.getLast? with
  | some k => k == checksum p.dropLast
  | none => false

/-- A packet or frame without its checksum byte: header, command or code, payload length, payload (R58, R61). -/
def frameBody (code : Byte) (payload : List Byte) : List Byte :=
  hdr ++ [code, BitVec.ofNat 8 payload.length] ++ payload

/-- A body closed by its checksum (R91). -/
def withChecksum (body : List Byte) : List Byte := body ++ [checksum body]

/-- The remap of a relative delta (R98): `0x80` is sent as `0x81`, every other byte as it is. -/
def remap (v : Byte) : Byte := if v = 0x80 then 0x81 else v

/-- A 16-bit value as two packet bytes, least significant first (R31). -/
def le16 (v : Word16) : List Byte := [v.extractLsb' 0 8, v.extractLsb' 8 8]

/-- The 16-bit value of two packet bytes, least significant first (R31). -/
def ofLe16 (lo hi : Byte) : Word16 := hi ++ lo

/-- The four command bytes (R59). -/
def cmdKbd : Byte := 0x02
def cmdAbs : Byte := 0x04
def cmdRel : Byte := 0x05
def cmdRst : Byte := 0x0F

/-- The keyboard report before its checksum (R94): modifier byte, reserved byte, slots 0 to 5. -/
def kbdBody (mod rsv : Byte) (slots : Slots) : List Byte := frameBody cmdKbd ([mod, rsv] ++ slots.toList)

/-- The mouse-absolute packet before its checksum (R95). -/
def absBody (mode btn : Byte) (x y : Word16) (scr : Byte) : List Byte :=
  frameBody cmdAbs ([mode, btn] ++ le16 x ++ le16 y ++ [scr])

/-- The mouse-relative packet before its checksum (R96); the delta bytes as they are sent. -/
def relBody (mode btn dx dy w : Byte) : List Byte := frameBody cmdRel [mode, btn, dx, dy, w]

/-- The soft-reset packet before its checksum (R97). -/
def rstBody : List Byte := frameBody cmdRst []

/-- The success code of a command whose low six bits are `cmd` (R62). -/
def okCode (cmd : BitVec 6) : Byte := 0b10#2 ++ cmd

/-- The error code of a command whose low six bits are `cmd` (R62). -/
def errCode (cmd : BitVec 6) : Byte := 0b11#2 ++ cmd

/-- The checksum a reply frame must end with: the header, the code, the length byte and the payload, summed (R61,
R91). -/
def replySum (code len paySum : Byte) : Byte := checksum (hdr ++ [code, len]) + paySum

/-- A payload of `len` bytes that sums to `paySum`: the encoder's choice of a payload, which no rule reads
(R105, R109). -/
def replyPayload (len paySum : Byte) : List Byte :=
  match len.toNat with
  | 0 => []
  | n + 1 => paySum :: List.replicate n 0

/-- A reply frame's bytes (R61). -/
def replyBytes (code len paySum cks : Byte) : List Byte :=
  hdr ++ [code, len] ++ replyPayload len paySum ++ [cks]

end Sys2Proof.Machine
end

