-- ==== Sys2Proof/WellFormed.lean ====
section
/-! DEFINITION. Which instructions are well formed: the constant bytes, the checksum and the ranges that the spec
gives a packet and a reply frame. -/

namespace Sys2Proof

open Machine

/-- Every value of an event word's fields decodes (R56), so every event is well formed; what an operation does not
accept (a button index, R81 and R82) is its own status. A packet must carry its constant bytes, values that the mouse
registers can hold (R19, R20), remapped deltas (R98) and its checksum (R91). A reply frame must end with its checksum
(R61), and a payload of no bytes sums to 0. -/
def Instr.wellFormed : Instr → Bool
  | .keydown _ _ => true
  | .keyup _ _ => true
  | .movea _ _ _ => true
  | .mover _ _ _ => true
  | .btndown _ => true
  | .btnup _ => true
  | .scroll _ => true
  | .reset => true
  | .pktKbd mod rsv slots cks => rsv == 0x00 && cks == checksum (kbdBody mod rsv slots)
  | .pktAbs mode btn x y scr cks =>
    mode == 0x02 && btn.toNat < 8 && x.toNat ≤ 4095 && y.toNat ≤ 4095 && scr == 0x00 &&
      cks == checksum (absBody mode btn x y scr)
  | .pktRel mode btn dx dy w cks =>
    mode == 0x01 && btn.toNat < 8 && dx != 0x80 && dy != 0x80 && cks == checksum (relBody mode btn dx dy w)
  | .pktRst cks => cks == checksum rstBody
  | .replyOk cmd len paySum cks => (len != 0 || paySum == 0) && cks == replySum (okCode cmd) len paySum
  | .replyErr cmd len paySum cks => (len != 0 || paySum == 0) && cks == replySum (errCode cmd) len paySum

end Sys2Proof
end

