-- ==== Sys2Proof/Decode.lean ====
section
/-! DEFINITION. The decoders of the three encodings of 30_encoding.md (event word R56, command packet R58 to R60, reply
frame R61 and R62), total on any bits or bytes and rejecting by name, and the encoder written from the same tables. -/

namespace Sys2Proof

open Machine

/-- Why bits or bytes are no instruction of the opcode table. For an event word both reasons make it Malformed
(R55). -/
inductive DecodeError where
  /-- An event word whose opcode is not assigned (R48, R55). -/
  | unassignedOpcode (op : Byte)
  /-- An event word with a reserved bit of its format set (R55). -/
  | reservedBits
  /-- The first three bytes are not the sync header (R6). -/
  | badSync
  /-- A packet whose command byte is none of the four (R59). -/
  | unknownCommand (cmd : Byte)
  /-- A packet whose length byte is not the one of its command (R60). -/
  | wrongLength (cmd len : Byte)
  /-- A frame whose code byte is neither a success nor an error code (R62). -/
  | notAReply (code : Byte)
  /-- Fewer bytes than the length byte promises (R60, R61). -/
  | truncated
deriving DecidableEq, Repr

/-- The three encodings: a word on the event port, a packet's bytes on TX, a reply frame's bytes on RX. -/
inductive Encoded where
  | event (w : EventWord)
  | packet (bytes : List Byte)
  | reply (bytes : List Byte)
deriving DecidableEq, Repr

/-- The decode of an event word, rule R56 line by line. -/
def decodeEvent (e : EventWord) : Except DecodeError Instr :=
  let op : Byte := e.extractLsb' 32 8
  if op = 0x00 then
    if e.extractLsb' 9 23 ≠ 0 then .error .reservedBits
    else .ok (.keydown (e.extractLsb' 0 8) (e.getLsbD 8))
  else if op = 0x01 then
    if e.extractLsb' 9 23 ≠ 0 then .error .reservedBits
    else .ok (.keyup (e.extractLsb' 0 8) (e.getLsbD 8))
  else if op = 0x02 then
    if e.extractLsb' 24 6 ≠ 0 then .error .reservedBits
    else if e.getLsbD 31 = false then .ok (.movea (e.extractLsb' 12 12) (e.extractLsb' 0 12) (e.getLsbD 30))
    else if e.extractLsb' 16 8 ≠ 0 then .error .reservedBits
    else .ok (.mover (e.extractLsb' 8 8) (e.extractLsb' 0 8) (e.getLsbD 30))
  else if op = 0x03 then
    if e.extractLsb' 8 24 ≠ 0 then .error .reservedBits else .ok (.btndown (e.extractLsb' 0 8))
  else if op = 0x04 then
    if e.extractLsb' 8 24 ≠ 0 then .error .reservedBits else .ok (.btnup (e.extractLsb' 0 8))
  else if op = 0x05 then
    if e.extractLsb' 8 24 ≠ 0 then .error .reservedBits else .ok (.scroll (e.extractLsb' 0 8))
  else if op = 0xFF then
    if e.extractLsb' 0 32 ≠ 0 then .error .reservedBits else .ok .reset
  else .error (.unassignedOpcode op)

/-- A packet's bytes after its command and length bytes, by command (R59, R60). -/
def decodePacketRest (cmd len : Byte) (rest : List Byte) : Except DecodeError (Instr × List Byte) :=
  if cmd = cmdKbd then
    if len ≠ 0x08 then .error (.wrongLength cmd len) else
    match rest with
    | m :: v :: s0 :: s1 :: s2 :: s3 :: s4 :: s5 :: k :: more => .ok (.pktKbd m v #v[s0, s1, s2, s3, s4, s5] k, more)
    | _ => .error .truncated
  else if cmd = cmdAbs then
    if len ≠ 0x07 then .error (.wrongLength cmd len) else
    match rest with
    | mode :: b :: xl :: xh :: yl :: yh :: scr :: k :: more =>
      .ok (.pktAbs mode b (ofLe16 xl xh) (ofLe16 yl yh) scr k, more)
    | _ => .error .truncated
  else if cmd = cmdRel then
    if len ≠ 0x05 then .error (.wrongLength cmd len) else
    match rest with
    | mode :: b :: dx :: dy :: w :: k :: more => .ok (.pktRel mode b dx dy w k, more)
    | _ => .error .truncated
  else if cmd = cmdRst then
    if len ≠ 0x00 then .error (.wrongLength cmd len) else
    match rest with
    | k :: more => .ok (.pktRst k, more)
    | [] => .error .truncated
  else .error (.unknownCommand cmd)

/-- The command packet at the front of a byte sequence, and the bytes after it. It is selected by its first five bytes,
as the opcode table's match and mask say; the bytes after them are operands. -/
def decodePacket : List Byte → Except DecodeError (Instr × List Byte)
  | h0 :: h1 :: h2 :: cmd :: len :: rest =>
    if [h0, h1, h2] = hdr then decodePacketRest cmd len rest else .error .badSync
  | _ => .error .truncated

/-- The reply instruction of a frame with this code, length byte, payload sum and checksum byte, where the code is a
success or an error code (R62; the opcode table's mask leaves the code's low six bits to the command). -/
def replyOfCode (code len paySum cks : Byte) : Option Instr :=
  if code.extractLsb' 6 2 = 0b10#2 then some (.replyOk (code.extractLsb' 0 6) len paySum cks)
  else if code.extractLsb' 6 2 = 0b11#2 then some (.replyErr (code.extractLsb' 0 6) len paySum cks)
  else none

/-- The reply frame at the front of a byte sequence, and the bytes after it (R61). -/
def decodeReply : List Byte → Except DecodeError (Instr × List Byte)
  | h0 :: h1 :: h2 :: code :: len :: rest =>
    if [h0, h1, h2] = hdr then
      if rest.length ≤ len.toNat then .error .truncated
      else
        match replyOfCode code len (checksum (rest.take len.toNat)) (rest.getD len.toNat 0) with
        | some i => .ok (i, rest.drop (len.toNat + 1))
        | none => .error (.notAReply code)
    else .error .badSync
  | _ => .error .truncated

/-- The decoder over the three encodings. Bytes after a packet or a frame belong to the next one. -/
def decode : Encoded → Except DecodeError Instr
  | .event w => decodeEvent w
  | .packet bytes => (decodePacket bytes).map Prod.fst
  | .reply bytes => (decodeReply bytes).map Prod.fst

/-- The encoder, from the formats K, M, B, S, Z (R49 to R53), the packet layouts (R94 to R97) and the reply layout
(R61). -/
def encode : Instr → Encoded
  | .keydown kc r => .event (0x00#8 ++ 0#23 ++ BitVec.ofBool r ++ kc)
  | .keyup kc r => .event (0x01#8 ++ 0#23 ++ BitVec.ofBool r ++ kc)
  | .movea x y out => .event (0x02#8 ++ 0#1 ++ BitVec.ofBool out ++ 0#6 ++ x ++ y)
  | .mover dx dy out => .event (0x02#8 ++ 1#1 ++ BitVec.ofBool out ++ 0#14 ++ dx ++ dy)
  | .btndown b => .event (0x03#8 ++ 0#24 ++ b)
  | .btnup b => .event (0x04#8 ++ 0#24 ++ b)
  | .scroll t => .event (0x05#8 ++ 0#24 ++ t)
  | .reset => .event (0xFF#8 ++ 0#32)
  | .pktKbd mod rsv slots cks => .packet (kbdBody mod rsv slots ++ [cks])
  | .pktAbs mode btn x y scr cks => .packet (absBody mode btn x y scr ++ [cks])
  | .pktRel mode btn dx dy w cks => .packet (relBody mode btn dx dy w ++ [cks])
  | .pktRst cks => .packet (rstBody ++ [cks])
  | .replyOk cmd len paySum cks => .reply (replyBytes (okCode cmd) len paySum cks)
  | .replyErr cmd len paySum cks => .reply (replyBytes (errCode cmd) len paySum cks)

/-- The first `n` bytes of a word of `nbits` bits as the opcode table writes a packet or a frame: one number, the
first byte its most significant. -/
def tableBytes (nbits w : Nat) : List Byte :=
  (List.range (nbits / 8)).map fun i => BitVec.ofNat 8 (w >>> (nbits - 8 * (i + 1)))

/-- The instruction that the decoder reads from an opcode-table word of `nbits` bits. The table writes every row as one
number: an event word is its 40 bits; a packet's row is its first five bytes and a reply frame's its first four. Bytes
above `nbits` are 0. The three encodings share no word, so they are tried in turn: an event word, a packet, a
reply. -/
def decodeTableWord (nbits w : Nat) : Option Instr :=
  let bytes := tableBytes nbits w ++ List.replicate 14 0
  match decodeEvent (BitVec.ofNat 40 w) with
  | .ok i => some i
  | .error _ =>
    match decodePacket bytes with
    | .ok (i, _) => some i
    | .error _ =>
      match decodeReply bytes with
      | .ok (i, _) => some i
      | .error _ => none

end Sys2Proof
end

