-- ==== Sys2Proof/Machine/Keymap.lean ====
section
/-! DEFINITION. The keycode maps: how a configuration's tables are read (R5), the default tables of R68, and which
configurations are legal (R2, R3, R5). -/

namespace Sys2Proof.Machine

/-- Whether a keycode lies in a row's range. -/
def rangeContains (k : KeyRange) (kc : Byte) : Bool := k.first.toNat ≤ kc.toNat && kc.toNat ≤ k.last.toNat

/-- The usage a row gives a keycode of its range. -/
def rangeUsage (k : KeyRange) (kc : Byte) : Byte := k.usage + (kc - k.first)

/-- The usage code of the first row of a table that contains the keycode, or none. -/
def usageIn (rows : List KeyRange) (kc : Byte) : Option Byte :=
  (rows.find? (rangeContains · kc)).map (rangeUsage · kc)

/-- `KEYMAP(kc, r)` (R5). -/
def keymap (c : Config) (kc : Byte) (r : Bool) : Option Byte := usageIn (if r then c.keymapRight else c.keymapLeft) kc

/-- `MODMAP(kc)` (R5): the modifier of the first row for the keycode, or none. -/
def modmap (c : Config) (kc : Byte) : Option Modifier :=
  (c.modmap.find? (·.1 == kc)).map Prod.snd

/-- An explicit entry: one keycode (a decimal, as R68 writes it) and its usage. -/
def key (kc : Nat) (usage : Byte) : KeyRange := ⟨BitVec.ofNat 8 kc, BitVec.ofNat 8 kc, usage⟩

/-- A contiguous range of keycodes and the usage of its first. -/
def keys (first last : Nat) (usage : Byte) : KeyRange := ⟨BitVec.ofNat 8 first, BitVec.ofNat 8 last, usage⟩

/-- R68's arithmetic ranges: letters, digits, F1 to F12, keypad digits. -/
def defaultRanges : List KeyRange :=
  [keys 65 90 0x04, keys 49 57 0x1E, key 48 0x27, keys 112 123 0x3A, keys 97 105 0x59, key 96 0x62]

/-- R68's explicit entries, first half of the table. -/
def defaultEntries : List KeyRange := [
  key 8 0x2A, key 9 0x2B, key 13 0x28, key 19 0x48, key 20 0x39,
  key 27 0x29, key 32 0x2C, key 33 0x4B, key 34 0x4E, key 35 0x4D,
  key 36 0x4A, key 37 0x50, key 38 0x52, key 39 0x4F, key 40 0x51,
  key 44 0x46, key 45 0x49, key 46 0x4C, key 59 0x33, key 61 0x2E]

/-- R68's explicit entries, second half of the table. -/
def defaultEntriesMore : List KeyRange := [
  key 93 0x65, key 106 0x55, key 107 0x57, key 109 0x56, key 110 0x63,
  key 111 0x54, key 144 0x53, key 145 0x47, key 173 0x2D, key 186 0x33,
  key 187 0x2E, key 188 0x36, key 189 0x2D, key 190 0x37, key 191 0x38,
  key 192 0x35, key 219 0x2F, key 220 0x31, key 221 0x30, key 222 0x34]

/-- The default `KEYMAP` (R68), for either value of the right-side flag. -/
def defaultKeymap : List KeyRange := defaultRanges ++ defaultEntries ++ defaultEntriesMore

/-- The default `MODMAP` (R68). -/
def defaultModmap : List (Byte × Modifier) :=
  [(16, .shift), (17, .ctrl), (18, .alt), (91, .gui), (92, .gui), (224, .gui)]

/-- The configuration of the spec's test vectors (95_test_vectors.md, Conventions): `SCROLL_SENS = 1`, `T_REPLY = 16`,
`OOB_GUARD = 1` (R4's default) and the default maps (R68). R2, R3 and R5 leave the first two and the maps OPEN: DESIGN
CHOICE, log entry 1. -/
def standardConfig : Config :=
  { scrollSens := 1, tReply := 16, oobGuard := true,
    keymapLeft := defaultKeymap, keymapRight := defaultKeymap, modmap := defaultModmap }

/-- A row that yields no usage `0x00`: it does not begin there and does not run past `0xFF`. -/
def rangeLegal (k : KeyRange) : Bool :=
  k.usage != 0 && decide (k.usage.toNat + (k.last.toNat - k.first.toNat) ≤ 255)

/-- A table that never yields `0x00` (R5). Where no row can, no keycode need be tried. -/
def tableLegal (rows : List KeyRange) : Bool :=
  rows.all rangeLegal || (List.range 256).all fun kc => usageIn rows (BitVec.ofNat 8 kc) != some 0x00

/-- The legal configurations (R2, R3, R5). 93_implementation_defined.md has a model refuse every other one. -/
def legalConfig (c : Config) : Bool :=
  decide (1 ≤ c.scrollSens.toNat) && decide (c.scrollSens.toNat ≤ 0x7E) && decide (1 ≤ c.tReply) &&
    tableLegal c.keymapLeft && tableLegal c.keymapRight &&
    keymap c 65 false == some 0x04 && modmap c 65 == none && modmap c 17 == some .ctrl

end Sys2Proof.Machine
end

