-- ==== Sys2Proof/Machine/State.lean ====
section
/-! DEFINITION. The block's state: every register of 10_state.md section 5, the configuration (R29), the script of input
pins that the environment drives (R10, R13), and the reset state (R129). -/

namespace Sys2Proof.Machine

/-- The control state `fsm` (R23): `IDLE = 0`, `TX = 1`, `WAIT = 2`, `DONE = 3`. -/
inductive Fsm where
  | idle
  | tx
  | wait
  | done
deriving DecidableEq, Repr

/-- The status codes 0 to 9 in their order (R63). Codes 10 to 15 are never produced, so they are no values here. -/
inductive Status where
  | ok
  | transportUnavailable
  | unsupportedKey
  | keyboardSlotsExhausted
  | invalidOpcode
  | invalidModifier
  | replyTimeout
  | checksumMismatch
  | deviceError
  | suppressed
deriving DecidableEq, Repr

/-- The parser state `rx_st` (R26), `H0 = 0` to `SUM = 6`. The value 7 is never reached, so it is no value here. -/
inductive RxState where
  | h0
  | h1
  | h2
  | cmd
  | len
  | data
  | sum
deriving DecidableEq, Repr

/-- The keyboard state (R15, R16). -/
structure Keyboard where
  /-- `kbd_mod`: one bit for each modifier key, from bit 0 LCTRL, LSHIFT, LALT, LGUI, RCTRL, RSHIFT, RALT, RGUI. -/
  kbdMod : Byte
  /-- `kbd_slot[0..5]`: `0x00` is an empty slot (R17). -/
  kbdSlot : Slots
deriving DecidableEq, Repr

/-- The mouse state (R19, R20). -/
structure Mouse where
  /-- `ms_btn`: bit 0 left, bit 1 right, bit 2 middle, bits 7 to 3 always 0. -/
  msBtn : Byte
  msX : Word16
  msY : Word16
deriving DecidableEq, Repr

/-- What an event operation reads and writes: the `S` of R107 (keyboard state, mouse state, `oob`). -/
structure Device where
  kbd : Keyboard
  mouse : Mouse
  /-- The bounds-guard flag (R21). -/
  oob : Bool
deriving DecidableEq, Repr

/-- The framer's registers (R22). -/
structure Framer where
  pkt : PktBuf
  pktLen : BitVec 4
  txIdx : BitVec 4
deriving DecidableEq, Repr

/-- The control and correlator registers (R23 to R25). `pend_timer` is a whole number: its width is a parameter, wide
enough for `T_REPLY` (R24). -/
structure Control where
  fsm : Fsm
  pendCmd : Byte
  pendTimer : Nat
  cmplStatus : Status
  cmplCmd : Byte
deriving DecidableEq, Repr

/-- The RX frame parser's registers (R26). -/
structure RxRegs where
  rxSt : RxState
  rxCmd : Byte
  rxLen : Byte
  rxCnt : Byte
  rxSum : Byte
deriving DecidableEq, Repr

/-- The block, its configuration, and what the environment will drive on the input ports. -/
structure State where
  /-- The configuration, fixed when the block is built (R29). -/
  cfg : Config
  dev : Device
  framer : Framer
  ctl : Control
  rx : RxRegs
  /-- The MODEL's own: the input pins at the coming edges, the next edge's first (R13). Where the list is used up the
  pins are free values, `Config.freePins` (log entry 2). -/
  inputs : List Pins
  /-- The MODEL's own: how many edges have passed, the index of the free values. -/
  edge : Nat
deriving DecidableEq, Repr

/-- Reasons for the machine to stop with a fault: none. The block never traps; every failure is a status on the
completion record (R124, 60_exceptions.md section 1), so no constructor is needed and none exists. Safe: no claim
can rest on a fault. -/
inductive Fault where
deriving DecidableEq, Repr

/-- Reasons for the model to refuse. -/
inductive Refusal where
  /-- Raised by `exec` for an instruction without a meaning. No arm raises it. Safe. -/
  | notModelled (mnemonic : String)
  /-- Raised by `step` where the configuration is outside its legal range (R2, R3, R5), which the spec has a model
  reject before it runs (93_implementation_defined.md rows 2, 3 and 4). Safe. -/
  | illegalConfiguration
deriving DecidableEq, Repr

/-- Every register at its reset value (R129), for a block built with configuration `c`. The inputs stay the
environment's, and the edge count goes on. -/
def State.resetWith (c : Config) (inputs : List Pins) (edge : Nat) : State :=
  { cfg := c
    dev :=
      { kbd := { kbdMod := 0x00, kbdSlot := Vector.replicate 6 0x00 }
        mouse := { msBtn := 0x00, msX := 0, msY := 0 }
        oob := false }
    framer := { pkt := Vector.replicate 14 0, pktLen := 0, txIdx := 0 }
    ctl := { fsm := .idle, pendCmd := 0x00, pendTimer := 0, cmplStatus := .ok, cmplCmd := 0x00 }
    rx := { rxSt := .h0, rxCmd := 0, rxLen := 0, rxCnt := 0, rxSum := 0 }
    inputs := inputs
    edge := edge }

/-- The machine right after reset (R129), in the configuration of the spec's test vectors (log entry 1), with no input
scripted: every pin of every edge is a free value. -/
def State.reset : State := State.resetWith standardConfig [] 0

end Sys2Proof.Machine
end

