-- ==== Sys2Proof/Machine/Flags.lean ====
section
/-! DEFINITION. The block's only flags (R28): the bounds guard `oob` (R21, R78) and the status codes (R63), with the
numbers of the encoded registers (R23, R26). -/

namespace Sys2Proof.Machine

/-- What `GUARD` answers (R78): the event goes on from a state, or is suppressed. -/
inductive Guarded where
  | proceed (d : Device)
  | suppress (d : Device)
deriving DecidableEq, Repr

/-- `GUARD` for MOVEA and MOVER (R78): an outside move sets `oob` and is suppressed, an inside one clears it. -/
def guardMove (c : Config) (d : Device) (out : Bool) : Guarded :=
  if c.oobGuard then
    if out then .suppress { d with oob := true } else .proceed { d with oob := false }
  else .proceed d

/-- `GUARD` for BTNDOWN, BTNUP and SCROLL (R78): suppressed while `oob` is 1. -/
def guardOther (c : Config) (d : Device) : Guarded :=
  if c.oobGuard && d.oob then .suppress d else .proceed d

/-- The number of a status (R63). -/
def statusCode : Status → BitVec 4
  | .ok => 0
  | .transportUnavailable => 1
  | .unsupportedKey => 2
  | .keyboardSlotsExhausted => 3
  | .invalidOpcode => 4
  | .invalidModifier => 5
  | .replyTimeout => 6
  | .checksumMismatch => 7
  | .deviceError => 8
  | .suppressed => 9

/-- The number of a control state (R23). -/
def fsmCode : Fsm → BitVec 2
  | .idle => 0
  | .tx => 1
  | .wait => 2
  | .done => 3

/-- The number of a parser state (R26). -/
def rxStateCode : RxState → BitVec 3
  | .h0 => 0
  | .h1 => 1
  | .h2 => 2
  | .cmd => 3
  | .len => 4
  | .data => 5
  | .sum => 6

end Sys2Proof.Machine
end

