-- ==== Sys2Proof/Machine/Ops.lean ====
section
/-! DEFINITION. The operations that the meanings share: the pins of this edge, the completion record, building and
sending a packet, one edge of TX, the reply wait. The block has no memory and no exceptions (R38, R124): what an
exception is elsewhere is here a completion with a status, `complete`. -/

namespace Sys2Proof.Machine

/-- The input pins that this edge samples (R13): the next of the script, or free values where it is used up. -/
def State.pins (s : State) : Pins :=
  match s.inputs with
  | p :: _ => p
  | [] => Config.freePins s.edge

/-- `complete(status, cmd)` (R112): the record is written and DONE shows it (R111). -/
def complete (st : Status) (cmd : Byte) (s : State) : State :=
  { s with ctl := { s.ctl with cmplStatus := st, cmplCmd := cmd, fsm := .done } }

/-- The packet that an event's `Send` calls for (R9, R93): the relative packet takes the three motion bytes. -/
inductive PacketCall where
  | kbd
  | abs
  | rel (dx dy w : Byte)
  | rst
deriving DecidableEq, Repr

/-- The command byte of a packet (R59). -/
def PacketCall.cmd : PacketCall → Byte
  | .kbd => cmdKbd
  | .abs => cmdAbs
  | .rel _ _ _ => cmdRel
  | .rst => cmdRst

/-- `BUILD(S', cmd, args)` (R93 to R97): a full snapshot of the state after the event, closed by the checksum. -/
def buildPacket (d : Device) : PacketCall → List Byte
  | .kbd => withChecksum (kbdBody d.kbd.kbdMod 0x00 d.kbd.kbdSlot)
  | .abs => withChecksum (absBody 0x02 d.mouse.msBtn d.mouse.msX d.mouse.msY 0x00)
  | .rel dx dy w => withChecksum (relBody 0x01 d.mouse.msBtn (remap dx) (remap dy) w)
  | .rst => withChecksum rstBody

/-- `pkt[0 .. n-1] <- bytes`, `pkt_len <- n`, `tx_idx <- 0` (R100). The bytes from `n` on keep what they hold (R22). -/
def loadPacket (bytes : List Byte) (f : Framer) : Framer :=
  { pkt := Vector.ofFn fun i : Fin 14 => bytes.getD i f.pkt[i]
    pktLen := BitVec.ofNat 4 bytes.length
    txIdx := 0 }

/-- A packet is called for (R107's Send arm, R99, R100): with the link up it is loaded and the control state becomes TX;
with the link down the event completes TransportUnavailable, and the command byte is recorded all the same. -/
def sendPacket (cmd : Byte) (bytes : List Byte) (s : State) : State :=
  if s.pins.linkUp then
    { s with
      framer := loadPacket bytes s.framer
      ctl := { s.ctl with cmplStatus := .ok, cmplCmd := cmd, fsm := .tx } }
  else complete .transportUnavailable cmd s

/-- The result of an event operation (R9). -/
inductive EventResult where
  /-- No state changes and no packet. -/
  | error (st : Status)
  /-- The state changes and no packet is sent. -/
  | noSend (d : Device)
  /-- The bounds guard dropped the event. -/
  | suppress (d : Device)
  /-- The state changes and a packet is built from it and sent. -/
  | send (d : Device) (p : PacketCall)
deriving DecidableEq, Repr

/-- What taking an event writes, by its result (R107, R116). -/
def commit (s : State) : EventResult → State
  | .error st => complete st 0x00 s
  | .noSend d => complete .ok 0x00 { s with dev := d }
  | .suppress d => complete .suppressed 0x00 { s with dev := d }
  | .send d p => sendPacket p.cmd (buildPacket d p) { s with dev := d }

/-- `pkt[i]` (R22): a free value past the buffer's 14 bytes, where no reachable index is (log entry 5). -/
def pktByte (f : Framer) (i : BitVec 4) : Byte :=
  if h : i.toNat < 14 then f.pkt[i.toNat] else Config.freeTxByte i

/-- One edge in TX (R101): nothing without `tx_ready`; with it the offered byte is taken, and after the checksum byte
the PendingReply is registered (R108). -/
def txEdge (s : State) : State :=
  if s.pins.txReady then
    if s.framer.txIdx = s.framer.pktLen - 1 then
      { s with ctl := { s.ctl with pendCmd := pktByte s.framer 3, pendTimer := s.cfg.tReply, fsm := .wait } }
    else { s with framer := { s.framer with txIdx := s.framer.txIdx + 1 } }
  else s

/-- A command packet at one edge: in TX its next byte is sent (R101); elsewhere it is called for, and loaded or turned
away by the link (R99, R100). -/
def runPacket (cmd : Byte) (bytes : List Byte) (s : State) : State :=
  match s.ctl.fsm with
  | .tx => txEdge s
  | .idle => sendPacket cmd bytes s
  | .wait => sendPacket cmd bytes s
  | .done => sendPacket cmd bytes s

/-- A frame that has just ended (R104): whether its checksum passed, and its code. -/
structure Frame where
  ok : Bool
  code : Byte
deriving DecidableEq, Repr

/-- The status with which a frame resolves the wait for `pend_cmd`, or none where it is ignored (R109). -/
def judge (pendCmd : Byte) (f : Frame) : Option Status :=
  if !f.ok then some .checksumMismatch
  else if f.code = pendCmd ||| 0x80 then some .ok
  else if f.code = pendCmd ||| 0xC0 then some .deviceError
  else none

/-- `resolve(st)` (R109): the status is written and the command byte of the record kept. -/
def resolve (st : Status) (s : State) : State :=
  { s with ctl := { s.ctl with cmplStatus := st, fsm := .done } }

/-- `pend_timer - 1` (R110): a free value where the timer is 0, which no reachable state in WAIT has (log entry 6). -/
def timerDown (c : Config) (t : Nat) : Nat := if t = 0 then Config.freeTimer c.tReply else t - 1

/-- An edge in WAIT that no frame resolves (R110). -/
def countDown (s : State) : State :=
  if s.ctl.pendTimer = 1 then resolve .replyTimeout s
  else { s with ctl := { s.ctl with pendTimer := timerDown s.cfg s.ctl.pendTimer } }

/-- One edge in WAIT (R109, R110), with the frame that ends at it if one does: a resolving frame beats the timeout. -/
def waitEdge (f : Option Frame) (s : State) : State :=
  match f.bind (judge s.ctl.pendCmd) with
  | some st => resolve st s
  | none => countDown s

/-- A reply frame that ends at this edge: judged in WAIT (R109), thrown away elsewhere (R106). -/
def runReply (f : Frame) (s : State) : State :=
  match s.ctl.fsm with
  | .wait => waitEdge (some f) s
  | .idle => s
  | .tx => s
  | .done => s

end Sys2Proof.Machine
end

