-- ==== Sys2Proof/Machine/Receiver.lean ====
section
/-! DEFINITION. The RX frame parser (R104, R105). -/

namespace Sys2Proof.Machine

/-- `RX_STEP(b)` (R104): the parser's registers after it takes a byte. -/
def rxStep (b : Byte) (p : RxRegs) : RxRegs :=
  match p.rxSt with
  | .h0 => if b = 0x57 then { p with rxSum := 0x57, rxSt := .h1 } else p
  | .h1 =>
    if b = 0xAB then { p with rxSum := p.rxSum + 0xAB, rxSt := .h2 }
    else if b = 0x57 then { p with rxSum := 0x57, rxSt := .h1 }
    else { p with rxSt := .h0 }
  | .h2 =>
    if b = 0x00 then { p with rxSt := .cmd }
    else if b = 0x57 then { p with rxSum := 0x57, rxSt := .h1 }
    else { p with rxSt := .h0 }
  | .cmd => { p with rxCmd := b, rxSum := p.rxSum + b, rxSt := .len }
  | .len => { p with rxLen := b, rxSum := p.rxSum + b, rxCnt := 0, rxSt := if b = 0 then .sum else .data }
  | .data =>
    { p with rxSum := p.rxSum + b, rxCnt := p.rxCnt + 1, rxSt := if p.rxCnt + 1 = p.rxLen then .sum else .data }
  | .sum => { p with rxSt := .h0 }

/-- The signals `frame_ev`, `frame_ok`, `frame_cmd` of a byte taken (R104): a frame ends only in SUM. -/
def rxFrame (b : Byte) (p : RxRegs) : Option Frame :=
  match p.rxSt with
  | .sum => some ⟨b == p.rxSum, p.rxCmd⟩
  | .h0 => none
  | .h1 => none
  | .h2 => none
  | .cmd => none
  | .len => none
  | .data => none

/-- The parser over a byte sequence, one byte an edge. -/
def rxSteps (bytes : List Byte) (p : RxRegs) : RxRegs := bytes.foldl (fun q b => rxStep b q) p

/-- The parser's registers after this edge: a byte is taken exactly where `rx_valid` is 1, in every control state (R44,
R104). -/
def State.rxNext (s : State) : RxRegs := if s.pins.rxValid then rxStep s.pins.rxData s.rx else s.rx

/-- The frame that ends at this edge, if one does (R133). -/
def State.frame (s : State) : Option Frame := if s.pins.rxValid then rxFrame s.pins.rxData s.rx else none

end Sys2Proof.Machine
end

