-- ==== Sys2Proof/Machine/System.lean ====
section
/-! DEFINITION. RESET and malformed event words (42_system.md). -/

namespace Sys2Proof.Machine

/-- RESET (R87): the keyboard and mouse state are cleared, `oob` is not changed, the soft-reset packet is sent. -/
def softReset (d : Device) : EventResult :=
  .send
    { kbd := { kbdMod := 0x00, kbdSlot := Vector.replicate 6 0x00 }
      mouse := { msBtn := 0x00, msX := 0, msY := 0 }
      oob := d.oob } .rst

/-- A malformed event word (R88). -/
def malformed : EventResult := .error .invalidOpcode

/-- The edge at which a RESET word is taken (R87, R107). -/
def execReset (s : State) : Host.Outcome State Fault Refusal := .next (commit s (softReset s.dev))

end Sys2Proof.Machine
end

