-- ==== Sys2Proof/Machine/Control.lean ====
section
/-! DEFINITION. What one edge runs (R133): the instruction it fetches, what it does where it fetches none, and what
it does in any case. -/

namespace Sys2Proof.Machine

/-- The reply instruction whose checksum byte this edge takes, read from the parser's registers (R26): the payload's sum
is the running sum less the header's, the code's and the length byte's. -/
def State.endingReply (s : State) : Option Instr :=
  match s.frame with
  | some _ => replyOfCode s.rx.rxCmd s.rx.rxLen (s.rx.rxSum - checksum (hdr ++ [s.rx.rxCmd, s.rx.rxLen])) s.pins.rxData
  | none => none

/-- The instruction that this edge runs. In IDLE it is the event word taken (R107), in TX the packet in the buffer
(R101), in WAIT the reply frame that ends (R109). In DONE no input is looked at (R111). -/
def State.fetch (s : State) : Option Instr :=
  match s.ctl.fsm with
  | .idle => if s.pins.evtValid then (decodeEvent s.pins.evtData).toOption else none
  | .tx => ((decodePacket s.framer.pkt.toList).map Prod.fst).toOption
  | .wait => s.endingReply
  | .done => none

/-- The control state machine at an edge that fetches no instruction. In IDLE: a malformed word completes InvalidOpcode
(R88), and without an event nothing changes (R107). In TX: the byte goes out all the same (R101). In WAIT: a frame
whose code is no reply code is judged like any other (R109), else the timer counts (R110). In DONE: back to IDLE
(R111). -/
def controlEdge (s : State) : State :=
  match s.ctl.fsm with
  | .idle => if s.pins.evtValid then commit s malformed else s
  | .tx => txEdge s
  | .wait => waitEdge s.frame s
  | .done => { s with ctl := { s.ctl with fsm := .idle } }

/-- The end of an edge from `s` whose control part left `t`: the parser has stepped, over registers that no control part
writes (R133), and the environment's script has moved on by one edge. -/
def endEdge (s t : State) : State := { t with rx := s.rxNext, inputs := s.inputs.tail, edge := s.edge + 1 }

/-- An edge with `rst` or `teardown` (R128, R130): every register takes its reset value and nothing else happens. -/
def resetEdge (s : State) : State := State.resetWith s.cfg s.inputs.tail (s.edge + 1)

/-- Whether this edge is a reset or teardown edge (R133). -/
def State.resetting (s : State) : Bool := s.pins.rst || s.pins.teardown

end Sys2Proof.Machine
end

