-- ==== Sys2Proof/Machine/Operands.lean ====
section
/-! DEFINITION. Operand assembly (R54): modifier bits, slot search, button bits, coordinates, the wheel byte. -/

namespace Sys2Proof.Machine

/-- A modifier's index (R5). -/
def modifierIndex : Modifier → Nat
  | .ctrl => 0
  | .shift => 1
  | .alt => 2
  | .gui => 3

/-- The mask of modifier bit `m + 4*r` of `kbd_mod` (R15). -/
def modifierMask (m : Modifier) (r : Bool) : Byte := 1#8 <<< (modifierIndex m + 4 * r.toNat)

/-- The least slot that holds a value (R71: the first empty slot is the least that holds `0x00`). -/
def findSlot (slots : Slots) (v : Byte) : Option (Fin 6) := (List.finRange 6).find? fun i => slots[i] == v

/-- Slot `i` set to a value, the other slots left where they are (R18). -/
def setSlot (slots : Slots) (i : Fin 6) (v : Byte) : Slots := slots.set i v

/-- The keyboard state with slot `i` set. -/
def Keyboard.withSlot (k : Keyboard) (i : Fin 6) (v : Byte) : Keyboard :=
  { k with kbdSlot := setSlot k.kbdSlot i v }

/-- The mask of button `btn`, 1 left, 2 right, 3 middle: bit `btn - 1` of `ms_btn` (R51, R81). -/
def buttonMask (btn : Byte) : Byte := 1#8 <<< (btn.toNat - 1)

/-- The indices BTNDOWN accepts (R81). -/
def isButton (btn : Byte) : Bool := btn == 1 || btn == 2 || btn == 3

/-- The indices BTNUP accepts: a button, or 0 for all (R82). -/
def isButtonOrAll (btn : Byte) : Bool := btn == 0 || isButton btn

/-- A coordinate as it is stored and sent (R54: `zext_16`). -/
def zextCoord (v : Coord) : Word16 := v.zeroExtend 16

/-- The wheel byte of a non-zero tilt (R84): the formula is normative, not a two's complement (C5). -/
def wheel (c : Config) (t : Byte) : Byte := if t.msb then c.scrollSens else 0xFF - c.scrollSens

end Sys2Proof.Machine
end

