-- ==== Sys2Proof/Machine/Keyboard.lean ====
section
/-! DEFINITION. KEYDOWN and KEYUP (40_keyboard.md). -/

namespace Sys2Proof.Machine

/-- KEYDOWN (R69 to R71): a modifier sets its bit; a mapped key goes into the first empty slot. An event that changes
nothing sends nothing (R75). -/
def keydown (c : Config) (d : Device) (kc : Byte) (r : Bool) : EventResult :=
  match modmap c kc with
  | some m =>
    let mod' := d.kbd.kbdMod ||| modifierMask m r
    if mod' = d.kbd.kbdMod then .noSend d else .send { d with kbd := { d.kbd with kbdMod := mod' } } .kbd
  | none =>
    match keymap c kc r with
    | none => .error .unsupportedKey
    | some u =>
      match findSlot d.kbd.kbdSlot u with
      | some _ => .noSend d
      | none =>
        match findSlot d.kbd.kbdSlot 0x00 with
        | some i => .send { d with kbd := d.kbd.withSlot i u } .kbd
        | none => .error .keyboardSlotsExhausted

/-- KEYUP (R72 to R74): a modifier clears its own side's bit; a held key empties its slot. -/
def keyup (c : Config) (d : Device) (kc : Byte) (r : Bool) : EventResult :=
  match modmap c kc with
  | some m =>
    let mod' := d.kbd.kbdMod &&& ~~~modifierMask m r
    if mod' = d.kbd.kbdMod then .noSend d else .send { d with kbd := { d.kbd with kbdMod := mod' } } .kbd
  | none =>
    match keymap c kc r with
    | none => .error .unsupportedKey
    | some u =>
      match findSlot d.kbd.kbdSlot u with
      | some i => .send { d with kbd := d.kbd.withSlot i 0x00 } .kbd
      | none => .noSend d

/-- The edge at which a KEYDOWN word is taken (R69, R107). -/
def execKeydown (kc : Byte) (r : Bool) (s : State) : Host.Outcome State Fault Refusal :=
  .next (commit s (keydown s.cfg s.dev kc r))

/-- The edge at which a KEYUP word is taken (R72, R107). -/
def execKeyup (kc : Byte) (r : Bool) (s : State) : Host.Outcome State Fault Refusal :=
  .next (commit s (keyup s.cfg s.dev kc r))

end Sys2Proof.Machine
end

