-- ==== Sys2Proof/Machine/MouseEvents.lean ====
section
/-! DEFINITION. MOVEA, MOVER, BTNDOWN, BTNUP and SCROLL (41_mouse.md). The checks run in the order of R86: operand,
guard, no-op, send. -/

namespace Sys2Proof.Machine

/-- MOVEA (R79). -/
def movea (c : Config) (d : Device) (x y : Coord) (out : Bool) : EventResult :=
  match guardMove c d out with
  | .suppress d' => .suppress d'
  | .proceed d' => .send { d' with mouse := { d'.mouse with msX := zextCoord x, msY := zextCoord y } } .abs

/-- MOVER (R80): the stored position does not change. -/
def mover (c : Config) (d : Device) (dx dy : Byte) (out : Bool) : EventResult :=
  match guardMove c d out with
  | .suppress d' => .suppress d'
  | .proceed d' => .send d' (.rel dx dy 0x00)

/-- BTNDOWN (R81): sends even when the bit is already set (R85). -/
def btndown (c : Config) (d : Device) (btn : Byte) : EventResult :=
  if isButton btn then
    match guardOther c d with
    | .suppress d' => .suppress d'
    | .proceed d' =>
      .send { d' with mouse := { d'.mouse with msBtn := d'.mouse.msBtn ||| buttonMask btn } } (.rel 0x00 0x00 0x00)
  else .error .invalidOpcode

/-- BTNUP (R82): index 0 releases all. -/
def btnup (c : Config) (d : Device) (btn : Byte) : EventResult :=
  if isButtonOrAll btn then
    match guardOther c d with
    | .suppress d' => .suppress d'
    | .proceed d' =>
      let b := if btn = 0 then 0x00 else d'.mouse.msBtn &&& ~~~buttonMask btn
      .send { d' with mouse := { d'.mouse with msBtn := b } } (.rel 0x00 0x00 0x00)
  else .error .invalidOpcode

/-- SCROLL (R83): the guard comes before the no-op test. -/
def scroll (c : Config) (d : Device) (t : Byte) : EventResult :=
  match guardOther c d with
  | .suppress d' => .suppress d'
  | .proceed d' => if t = 0x00 then .noSend d' else .send d' (.rel 0x00 0x00 (wheel c t))

/-- The edge at which a MOVEA word is taken (R79, R107). -/
def execMovea (x y : Coord) (out : Bool) (s : State) : Host.Outcome State Fault Refusal :=
  .next (commit s (movea s.cfg s.dev x y out))

/-- The edge at which a MOVER word is taken (R80, R107). -/
def execMover (dx dy : Byte) (out : Bool) (s : State) : Host.Outcome State Fault Refusal :=
  .next (commit s (mover s.cfg s.dev dx dy out))

/-- The edge at which a BTNDOWN word is taken (R81, R107). -/
def execBtndown (btn : Byte) (s : State) : Host.Outcome State Fault Refusal :=
  .next (commit s (btndown s.cfg s.dev btn))

/-- The edge at which a BTNUP word is taken (R82, R107). -/
def execBtnup (btn : Byte) (s : State) : Host.Outcome State Fault Refusal :=
  .next (commit s (btnup s.cfg s.dev btn))

/-- The edge at which a SCROLL word is taken (R83, R107). -/
def execScroll (t : Byte) (s : State) : Host.Outcome State Fault Refusal :=
  .next (commit s (scroll s.cfg s.dev t))

end Sys2Proof.Machine
end

