-- ==== Sys2Proof/Machine/Packets.lean ====
section
/-! DEFINITION. The four command packets (43_framer.md). A packet acts at the edge at which it is called for (R99,
R100) and at each edge in TX, where its next byte is sent (R101, R108): `runPacket`. -/

namespace Sys2Proof.Machine

/-- PKT_KBD (R94). -/
def execPktKbd (mod rsv : Byte) (slots : Slots) (cks : Byte) (s : State) : Host.Outcome State Fault Refusal :=
  .next (runPacket cmdKbd (kbdBody mod rsv slots ++ [cks]) s)

/-- PKT_ABS (R95). -/
def execPktAbs (mode btn : Byte) (x y : Word16) (scr cks : Byte) (s : State) : Host.Outcome State Fault Refusal :=
  .next (runPacket cmdAbs (absBody mode btn x y scr ++ [cks]) s)

/-- PKT_REL (R96). -/
def execPktRel (mode btn dx dy w cks : Byte) (s : State) : Host.Outcome State Fault Refusal :=
  .next (runPacket cmdRel (relBody mode btn dx dy w ++ [cks]) s)

/-- PKT_RST (R97). -/
def execPktRst (cks : Byte) (s : State) : Host.Outcome State Fault Refusal :=
  .next (runPacket cmdRst (rstBody ++ [cks]) s)

end Sys2Proof.Machine
end

