-- ==== Sys2Proof/Machine/Replies.lean ====
section
/-! DEFINITION. The two reply frames (44_correlator.md): what a frame does at the edge at which its checksum byte is
taken. -/

namespace Sys2Proof.Machine

/-- REPLY_OK (R109): the code is `0x80 | cmd`; the checksum test is R92's. -/
def execReplyOk (cmd : BitVec 6) (len paySum cks : Byte) (s : State) : Host.Outcome State Fault Refusal :=
  .next (runReply ⟨cks == replySum (okCode cmd) len paySum, okCode cmd⟩ s)

/-- REPLY_ERR (R109): the code is `0xC0 | cmd`. -/
def execReplyErr (cmd : BitVec 6) (len paySum cks : Byte) (s : State) : Host.Outcome State Fault Refusal :=
  .next (runReply ⟨cks == replySum (errCode cmd) len paySum, errCode cmd⟩ s)

end Sys2Proof.Machine
end

