-- ==== Sys2Proof/Machine/Dispatch.lean ====
section
/-! DEFINITION. The meaning of each row of the opcode table, one arm a constructor. -/

namespace Sys2Proof.Machine

def exec (i : Instr) (s : State) : Host.Outcome State Fault Refusal :=
  match i with
  | .keydown kc r => Sys2Proof.Machine.execKeydown kc r s
  | .keyup kc r => Sys2Proof.Machine.execKeyup kc r s
  | .movea x y out => Sys2Proof.Machine.execMovea x y out s
  | .mover dx dy out => Sys2Proof.Machine.execMover dx dy out s
  | .btndown btn => Sys2Proof.Machine.execBtndown btn s
  | .btnup btn => Sys2Proof.Machine.execBtnup btn s
  | .scroll t => Sys2Proof.Machine.execScroll t s
  | .reset => Sys2Proof.Machine.execReset s
  | .pktKbd mod rsv slots cks => Sys2Proof.Machine.execPktKbd mod rsv slots cks s
  | .pktAbs mode btn x y scr cks => Sys2Proof.Machine.execPktAbs mode btn x y scr cks s
  | .pktRel mode btn dx dy w cks => Sys2Proof.Machine.execPktRel mode btn dx dy w cks s
  | .pktRst cks => Sys2Proof.Machine.execPktRst cks s
  | .replyOk cmd len paySum cks => Sys2Proof.Machine.execReplyOk cmd len paySum cks s
  | .replyErr cmd len paySum cks => Sys2Proof.Machine.execReplyErr cmd len paySum cks s

end Sys2Proof.Machine
end

