-- ==== Sys2Proof/Machine/Placement.lean ====
section
/-! DEFINITION. Placing an instruction where the next edge fetches it (log entry 3): an event word on the event port of
a block in IDLE, a packet in the buffer of a block in TX, a reply frame at its checksum byte in a block in WAIT. -/

namespace Sys2Proof.Machine

/-- Pins of an edge without reset or teardown: the link open, the TX sink ready, no event and no reply byte. -/
def quietPins : Pins :=
  { rst := false, teardown := false, linkUp := true, evtValid := false, evtData := 0, txReady := true,
    rxValid := false, rxData := 0 }

/-- The next edge's pins, in place of the script's first. -/
def State.withPins (p : Pins) (s : State) : State := { s with inputs := p :: s.inputs.tail }

/-- The host offers an event word to a block in IDLE (R107). -/
def placeEvent (w : EventWord) (s : State) : State :=
  ({ s with ctl := { s.ctl with fsm := .idle } } : State).withPins { quietPins with evtValid := true, evtData := w }

/-- A packet lies in the buffer of a block in TX, its first byte the next to go (R100). -/
def placePacket (bytes : List Byte) (s : State) : State :=
  ({ s with
      ctl := { s.ctl with fsm := .tx }
      framer :=
        { loadPacket bytes s.framer with pktLen := BitVec.ofNat 4 (6 + (bytes.getD 4 0).toNat) } } : State).withPins quietPins

/-- The parser of a block in WAIT has taken all of a frame with this code, length byte and payload sum but for its
checksum byte, which is the next RX byte (R104). -/
def placeReply (code len paySum cks : Byte) (s : State) : State :=
  ({ s with
      ctl := { s.ctl with fsm := .wait }
      rx := { rxSt := .sum, rxCmd := code, rxLen := len, rxCnt := len, rxSum := replySum code len paySum } } : State).withPins
    { quietPins with rxValid := true, rxData := cks }

/-- An opcode-table word placed by the port its encoding belongs to (`decodeTableWord`): a packet's or a frame's bytes
above `nbits` are 0. -/
def placeWord (s : State) (nbits w : Nat) : State :=
  let bytes := tableBytes nbits w ++ List.replicate 14 0
  match decodeTableWord nbits w with
  | some (.pktKbd _ _ _ _) => placePacket (bytes.take 14) s
  | some (.pktAbs _ _ _ _ _ _) => placePacket (bytes.take 14) s
  | some (.pktRel _ _ _ _ _ _) => placePacket (bytes.take 14) s
  | some (.pktRst _) => placePacket (bytes.take 14) s
  | some (.replyOk cmd len paySum cks) => placeReply (okCode cmd) len paySum cks s
  | some (.replyErr cmd len paySum cks) => placeReply (errCode cmd) len paySum cks s
  | some (.keydown _ _) => placeEvent (BitVec.ofNat 40 w) s
  | some (.keyup _ _) => placeEvent (BitVec.ofNat 40 w) s
  | some (.movea _ _ _) => placeEvent (BitVec.ofNat 40 w) s
  | some (.mover _ _ _) => placeEvent (BitVec.ofNat 40 w) s
  | some (.btndown _) => placeEvent (BitVec.ofNat 40 w) s
  | some (.btnup _) => placeEvent (BitVec.ofNat 40 w) s
  | some (.scroll _) => placeEvent (BitVec.ofNat 40 w) s
  | some .reset => placeEvent (BitVec.ofNat 40 w) s
  | none => placeEvent (BitVec.ofNat 40 w) s

end Sys2Proof.Machine
end

