-- ==== Sys2Proof/Machine/Step.lean ====
section
/-! DEFINITION. One step of the machine is one rising edge of `clk` (R133). -/

namespace Sys2Proof.Machine

/-- The control part of an edge: the fetched instruction runs, or the control state machine steps without one. -/
def runEdge (s : State) : Host.Outcome State Fault Refusal :=
  match s.fetch with
  | some i => exec i s
  | none => .next (controlEdge s)

/-- One rising edge (R133). A configuration outside its legal range is refused before it runs. -/
def step (s : State) : Host.Outcome State Fault Refusal :=
  if legalConfig s.cfg then
    if s.resetting then .next (resetEdge s)
    else
      match runEdge s with
      | .next t => .next (endEdge s t)
      | .fault f => .fault f
      | .refused r => .refused r
  else .refused .illegalConfiguration

/-- The instruction of an opcode-table word placed where the next step fetches it (log entry 3). -/
def State.withFetchWord (s : State) (nbits w : Nat) : State := placeWord s nbits w

end Sys2Proof.Machine
end

