-- ==== Sys2Proof/Machine/HostSide.lean ====
section
/-! DEFINITION. Rules at the block's boundary that the host follows: the right-side flag (R66), the boot sequence
(R132), the assembly syntax (R64) and the pseudo-instructions (R65). -/

namespace Sys2Proof.Machine

/-- The right-side flag the host gives a key event (R66). -/
def hostRightFlag (atRightLocation isKeypadEnter : Bool) : Bool := atRightLocation || isKeypadEnter

/-- What the host does before a session, in the order of R132: `rst` held for at least one edge; then at least one edge
with `rst` and `teardown` released and the byte stream still closed; then the stream opened (`link`), or left closed. The
host offers no event and the sink and the chip do what they like. -/
abbrev Boots (link : Bool) (resets released opened : List Pins) : Prop :=
  resets ≠ [] ∧ (∀ p ∈ resets, p.rst = true ∧ p.linkUp = false) ∧
  released ≠ [] ∧
  (∀ p ∈ released, p.rst = false ∧ p.teardown = false ∧ p.linkUp = false ∧ p.evtValid = false) ∧
  opened ≠ [] ∧ ∀ p ∈ opened, p.rst = false ∧ p.teardown = false ∧ p.linkUp = link ∧ p.evtValid = false

/-- The edge at which the host offers RESET as the first event, step 4 of R132, a recommendation. -/
abbrev offersReset (link : Bool) (p : Pins) : Prop :=
  p.rst = false ∧ p.teardown = false ∧ p.linkUp = link ∧ p.evtValid = true ∧ p.evtData = 0xFF00000000

/-- The shortest script that holds `rst` for `hold + 1` edges and follows R132 to the end: reset, release, open the link
or not, offer RESET. -/
def bootSequence (hold : Nat) (link : Bool) : List Pins :=
  List.replicate (hold + 1) { quietPins with rst := true, linkUp := false } ++
    [{ quietPins with linkUp := false }, { quietPins with linkUp := link },
     { quietPins with linkUp := link, evtValid := true, evtData := 0xFF00000000 }]

/-- A line's mnemonic (R64, R65). -/
inductive Mnemonic where
  | keydown
  | keyup
  | movea
  | mover
  | btndown
  | btnup
  | scroll
  | reset
  | relall
  | tap
  | click
  | pushmouse
deriving DecidableEq, Repr

/-- Why a line does not assemble. -/
inductive AsmError where
  | unknownMnemonic
  | badOperand
  | wrongOperands
  /-- "An operand that does not fit its field is an assembly error" (R64). -/
  | doesNotFit
deriving DecidableEq, Repr

/-- An operand: a number, or one of the words `R` and `OUT` (R64). -/
inductive Operand where
  | num (v : Int)
  | right
  | out
deriving DecidableEq, Repr

/-- The spellings of R64 and R65. -/
def mnemonicOf (w : List Char) : Option Mnemonic :=
  if w = ['K', 'E', 'Y', 'D', 'O', 'W', 'N'] then some .keydown
  else if w = ['K', 'E', 'Y', 'U', 'P'] then some .keyup
  else if w = ['M', 'O', 'V', 'E', 'A'] then some .movea
  else if w = ['M', 'O', 'V', 'E', 'R'] then some .mover
  else if w = ['B', 'T', 'N', 'D', 'O', 'W', 'N'] then some .btndown
  else if w = ['B', 'T', 'N', 'U', 'P'] then some .btnup
  else if w = ['S', 'C', 'R', 'O', 'L', 'L'] then some .scroll
  else if w = ['R', 'E', 'S', 'E', 'T'] then some .reset
  else if w = ['R', 'E', 'L', 'A', 'L', 'L'] then some .relall
  else if w = ['T', 'A', 'P'] then some .tap
  else if w = ['C', 'L', 'I', 'C', 'K'] then some .click
  else if w = ['P', 'U', 'S', 'H', 'M', 'O', 'U', 'S', 'E'] then some .pushmouse
  else none

/-- A digit's value in a base. -/
def digitOf (base : Nat) (c : Char) : Option Nat :=
  let n := c.toNat
  let v := if 48 ≤ n ∧ n ≤ 57 then some (n - 48)
    else if 65 ≤ n ∧ n ≤ 70 then some (n - 55)
    else if 97 ≤ n ∧ n ≤ 102 then some (n - 87)
    else none
  v.bind fun d => if d < base then some d else none

/-- The digits of a number, the most significant first, onto an accumulator. -/
def digits (base : Nat) : List Char → Nat → Option Nat
  | [], acc => some acc
  | c :: cs, acc => (digitOf base c).bind fun d => digits base cs (acc * base + d)

/-- A number (R64): decimal, `0x` hexadecimal, or a negative decimal. -/
def numberOf : List Char → Option Int
  | '0' :: 'x' :: d :: ds => (digits 16 (d :: ds) 0).map Int.ofNat
  | '-' :: d :: ds => (digits 10 (d :: ds) 0).map fun n => -Int.ofNat n
  | d :: ds => (digits 10 (d :: ds) 0).map Int.ofNat
  | [] => none

/-- One operand. -/
def operandOf (w : List Char) : Except AsmError Operand :=
  if w = ['R'] then .ok .right
  else if w = ['O', 'U', 'T'] then .ok .out
  else match numberOf w with
    | some v => .ok (.num v)
    | none => .error .badOperand

/-- An unsigned operand of `w` bits. -/
def fitUnsigned (w : Nat) (v : Int) : Except AsmError (BitVec w) :=
  if 0 ≤ v ∧ v < 2 ^ w then .ok (BitVec.ofInt w v) else .error .doesNotFit

/-- A delta or tilt (R64): a byte, or a negative decimal down to -128 in two's complement. -/
def fitDelta (v : Int) : Except AsmError Byte :=
  if -128 ≤ v ∧ v < 256 then .ok (BitVec.ofInt 8 v) else .error .doesNotFit

/-- The instructions of one line: R64's forms, and R65's expansions. -/
def assemble (m : Mnemonic) (ops : List Operand) : Except AsmError (List Instr) :=
  match m, ops with
  | .keydown, [.num kc] => (fitUnsigned 8 kc).map fun k => [.keydown k false]
  | .keydown, [.num kc, .right] => (fitUnsigned 8 kc).map fun k => [.keydown k true]
  | .keyup, [.num kc] => (fitUnsigned 8 kc).map fun k => [.keyup k false]
  | .keyup, [.num kc, .right] => (fitUnsigned 8 kc).map fun k => [.keyup k true]
  | .movea, [.num x, .num y] => (fitUnsigned 12 x).bind fun a => (fitUnsigned 12 y).map fun b => [.movea a b false]
  | .movea, [.num x, .num y, .out] => (fitUnsigned 12 x).bind fun a => (fitUnsigned 12 y).map fun b => [.movea a b true]
  | .mover, [.num x, .num y] => (fitDelta x).bind fun a => (fitDelta y).map fun b => [.mover a b false]
  | .mover, [.num x, .num y, .out] => (fitDelta x).bind fun a => (fitDelta y).map fun b => [.mover a b true]
  | .btndown, [.num b] => (fitUnsigned 8 b).map fun k => [.btndown k]
  | .btnup, [.num b] => (fitUnsigned 8 b).map fun k => [.btnup k]
  | .scroll, [.num t] => (fitDelta t).map fun k => [.scroll k]
  | .reset, [] => .ok [.reset]
  | .relall, [] => .ok [.btnup 0]
  | .tap, [.num kc] => (fitUnsigned 8 kc).map fun k => [.keydown k false, .keyup k false]
  | .tap, [.num kc, .right] => (fitUnsigned 8 kc).map fun k => [.keydown k true, .keyup k true]
  | .click, [.num b] => (fitUnsigned 8 b).map fun k => [.btndown k, .btnup k]
  | .pushmouse, [] => .ok [.mover 0 0 false]
  | _, _ => .error .wrongOperands

/-- White space between the parts of a line. -/
def isBlank (c : Char) : Bool := c == ' ' || c == '\t' || c == '\r'

/-- A text without the white space around it. -/
def trim (cs : List Char) : List Char := ((cs.dropWhile isBlank).reverse.dropWhile isBlank).reverse

/-- The operands of a list separated by commas. -/
def operandsOf : List (List Char) → Except AsmError (List Operand)
  | [] => .ok []
  | w :: ws => (operandOf (trim w)).bind fun o => (operandsOf ws).map fun os => o :: os

/-- One line of assembly (R64): a mnemonic, then operands separated by commas; a `;` starts a comment. -/
def assembleLine (line : List Char) : Except AsmError (List Instr) :=
  let text := trim (line.takeWhile (· != ';'))
  if text = [] then .ok []
  else
    let rest := trim (text.dropWhile (!isBlank ·))
    match mnemonicOf (text.takeWhile (!isBlank ·)) with
    | none => .error .unknownMnemonic
    | some m =>
      if rest = [] then assemble m []
      else (operandsOf (rest.splitOn ',')).bind (assemble m)

end Sys2Proof.Machine
end

