-- ==== Sys2Proof/Machine/Ports.lean ====
section
/-! DEFINITION. The output ports (R14) and what an observer of the ports sees at an edge and of
a run (R30, R112). -/

namespace Sys2Proof.Machine

/-- The output ports (R13). -/
structure Outputs where
  evtReady : Bool
  cmplValid : Bool
  cmplStatus : BitVec 4
  cmplCmd : Byte
  txValid : Bool
  txData : Byte
deriving DecidableEq, Repr

/-- The outputs as functions of the registers alone (R14). -/
def State.outputs (s : State) : Outputs :=
  { evtReady := s.ctl.fsm == .idle
    cmplValid := s.ctl.fsm == .done
    cmplStatus := statusCode s.ctl.cmplStatus
    cmplCmd := s.ctl.cmplCmd
    txValid := s.ctl.fsm == .tx
    txData := if s.ctl.fsm = .tx then pktByte s.framer s.framer.txIdx else 0x00 }

/-- The transfers of one edge (R30): the event word taken, the completion shown, the packet byte sent, the reply byte
taken. -/
structure Transfers where
  event : Option EventWord
  completion : Option (BitVec 4 × Byte)
  txByte : Option Byte
  rxByte : Option Byte
deriving DecidableEq, Repr

/-- What is transferred at this edge (R14); at a reset or teardown edge nothing is (R128). -/
def State.transfers (s : State) : Transfers :=
  if s.resetting then { event := none, completion := none, txByte := none, rxByte := none }
  else
    { event := if s.outputs.evtReady && s.pins.evtValid then some s.pins.evtData else none
      completion := if s.outputs.cmplValid then some (s.outputs.cmplStatus, s.outputs.cmplCmd) else none
      txByte := if s.outputs.txValid && s.pins.txReady then some s.outputs.txData else none
      rxByte := if s.pins.rxValid then some s.pins.rxData else none }

/-- The events taken in a sequence of edges, in order, each with the completion shown for it (R42, R112): the first one
shown before another event is taken. An event that `rst` or `teardown` cuts has none. The first argument is an event
taken before the sequence whose completion is still to come. -/
def recordsFrom : Option EventWord → List Transfers → List (EventWord × Option (BitVec 4 × Byte))
  | none, [] => []
  | some e, [] => [(e, none)]
  | none, x :: xs => recordsFrom x.event xs
  | some e, x :: xs =>
    match x.completion, x.event with
    | some k, next => (e, some k) :: recordsFrom next xs
    | none, some e' => (e, none) :: recordsFrom (some e') xs
    | none, none => recordsFrom (some e) xs

/-- The events of a sequence of edges with their completions. -/
def records (xs : List Transfers) : List (EventWord × Option (BitVec 4 × Byte)) := recordsFrom none xs

end Sys2Proof.Machine
end

