-- ==== Sys2Proof/Safety.lean ====
section
/-! DEFINITION. What the statements are said in: the invariant of the reachable states, runs of edges, and the end of a
run. -/

namespace Sys2Proof.Machine

/-- No non-zero usage is held by two slots at once (R18). -/
abbrev SlotsDistinct (slots : Slots) : Prop :=
  ∀ i j : Fin 6, i ≠ j → slots[i] ≠ 0x00 → slots[i] ≠ slots[j]

/-- The device state's invariants: R18, R19 (bits 7 to 3 of `ms_btn` are 0), R20 (coordinates up to 4095), R21 (`oob`
is 0 where the guard is off). -/
abbrev DeviceInv (c : Config) (d : Device) : Prop :=
  SlotsDistinct d.kbd.kbdSlot ∧ d.mouse.msBtn.toNat < 8 ∧ d.mouse.msX.toNat ≤ 4095 ∧ d.mouse.msY.toNat ≤ 4095 ∧
    (c.oobGuard = false → d.oob = false)

/-- In TX the buffer holds a well-formed packet, `pkt_len` is its length and `tx_idx` one of its bytes (R22, R100,
R101); its command byte is the one the completion record names (R107). -/
abbrev SendingInv (s : State) : Prop :=
  ∃ p : PacketCall, (buildPacket s.dev p).length = s.framer.pktLen.toNat ∧ s.framer.txIdx.toNat < s.framer.pktLen.toNat ∧
    s.framer.pkt.toList.take s.framer.pktLen.toNat = buildPacket s.dev p ∧ s.ctl.cmplCmd = p.cmd

/-- In WAIT the timer is between 1 and `T_REPLY` (R110) and the pending command is the one the completion record
names (R108). -/
abbrev WaitingInv (s : State) : Prop :=
  1 ≤ s.ctl.pendTimer ∧ s.ctl.pendTimer ≤ s.cfg.tReply ∧ s.ctl.pendCmd = s.ctl.cmplCmd ∧
    s.ctl.pendCmd ∈ [cmdKbd, cmdAbs, cmdRel, cmdRst]

/-- The parser's registers (R104): the running sum after each header byte, and a count below the length in DATA. -/
abbrev ParserInv (p : RxRegs) : Prop :=
  (p.rxSt = .h1 → p.rxSum = 0x57) ∧ (p.rxSt = .h2 → p.rxSum = 0x02) ∧ (p.rxSt = .cmd → p.rxSum = 0x02) ∧
    (p.rxSt = .len → p.rxSum = checksum (hdr ++ [p.rxCmd])) ∧ (p.rxSt = .data → p.rxCnt.toNat < p.rxLen.toNat)

/-- The invariant of the reachable states. -/
def State.Inv (s : State) : Prop :=
  DeviceInv s.cfg s.dev ∧ (s.ctl.fsm = .tx → SendingInv s) ∧ (s.ctl.fsm = .wait → WaitingInv s) ∧
    s.ctl.cmplStatus ≠ .invalidModifier ∧ ParserInv s.rx

/-- The eight event rows of the opcode table. -/
def isEvent : Instr → Bool
  | .keydown _ _ => true
  | .keyup _ _ => true
  | .movea _ _ _ => true
  | .mover _ _ _ => true
  | .btndown _ => true
  | .btnup _ => true
  | .scroll _ => true
  | .reset => true
  | .pktKbd _ _ _ _ => false
  | .pktAbs _ _ _ _ _ _ => false
  | .pktRel _ _ _ _ _ _ => false
  | .pktRst _ => false
  | .replyOk _ _ _ _ => false
  | .replyErr _ _ _ _ => false

/-- The five mouse events (41_mouse.md). -/
def isMouse : Instr → Bool
  | .keydown _ _ => false
  | .keyup _ _ => false
  | .movea _ _ _ => true
  | .mover _ _ _ => true
  | .btndown _ => true
  | .btnup _ => true
  | .scroll _ => true
  | .reset => false
  | .pktKbd _ _ _ _ => false
  | .pktAbs _ _ _ _ _ _ => false
  | .pktRel _ _ _ _ _ _ => false
  | .pktRst _ => false
  | .replyOk _ _ _ _ => false
  | .replyErr _ _ _ _ => false

/-- The four packet rows (R59). -/
def isPacket : Instr → Bool
  | .keydown _ _ => false
  | .keyup _ _ => false
  | .movea _ _ _ => false
  | .mover _ _ _ => false
  | .btndown _ => false
  | .btnup _ => false
  | .scroll _ => false
  | .reset => false
  | .pktKbd _ _ _ _ => true
  | .pktAbs _ _ _ _ _ _ => true
  | .pktRel _ _ _ _ _ _ => true
  | .pktRst _ => true
  | .replyOk _ _ _ _ => false
  | .replyErr _ _ _ _ => false

/-- Mask and match of the eight event rows, as the opcode table writes them: an assigned opcode and no reserved bit
set (R48 to R53). -/
def eventRows : List (EventWord × EventWord) :=
  [(0xFFFFFFFE00, 0x0000000000), (0xFFFFFFFE00, 0x0100000000), (0xFFBF000000, 0x0200000000),
   (0xFFBFFF0000, 0x0280000000), (0xFFFFFFFF00, 0x0300000000), (0xFFFFFFFF00, 0x0400000000),
   (0xFFFFFFFF00, 0x0500000000), (0xFFFFFFFFFF, 0xFF00000000)]

/-- The sum of the bytes modulo 256, taken over whole numbers (R91). -/
def additive (bytes : List Byte) : Byte := BitVec.ofNat 8 (bytes.map BitVec.toNat).sum

/-- Bytes closed by their checksum (R91). -/
def closed (body : List Byte) : List Byte := body ++ [additive body]

/-- The keyboard report, byte by byte (R94). -/
def kbdReport (mod : Byte) (slots : Slots) : List Byte :=
  closed [0x57, 0xAB, 0x00, 0x02, 0x08, mod, 0x00, slots[0], slots[1], slots[2], slots[3], slots[4], slots[5]]

/-- The mouse-absolute packet, byte by byte (R95), the coordinates least significant byte first (R31). -/
def absReport (btn : Byte) (x y : Nat) : List Byte :=
  closed [0x57, 0xAB, 0x00, 0x04, 0x07, 0x02, btn, BitVec.ofNat 8 (x % 256), BitVec.ofNat 8 (x / 256),
    BitVec.ofNat 8 (y % 256), BitVec.ofNat 8 (y / 256), 0x00]

/-- The mouse-relative packet, byte by byte (R96), its deltas remapped (R98). -/
def relReport (btn dx dy w : Byte) : List Byte :=
  closed [0x57, 0xAB, 0x00, 0x05, 0x05, 0x01, btn, if dx = 0x80 then 0x81 else dx, if dy = 0x80 then 0x81 else dy, w]

/-- The soft-reset packet, byte by byte (R97). -/
def rstPacket : List Byte := [0x57, 0xAB, 0x00, 0x0F, 0x00, 0x11]

/-- A state with the event done: this device state, this completion record, all else as before. -/
def completedAs (d : Device) (st : Status) (cmd : Byte) (s : State) : State :=
  { s with dev := d, ctl := { s.ctl with fsm := .done, cmplStatus := st, cmplCmd := cmd } }

/-- `t` is `s` with this device state and these bytes loaded for sending; the buffer's bytes after them, and all else,
are as before (R100). -/
def LoadedWith (d : Device) (cmd : Byte) (bytes : List Byte) (s t : State) : Prop :=
  t.framer.pkt.toList = bytes ++ s.framer.pkt.toList.drop bytes.length ∧
  t = { s with
        dev := d
        framer := { pkt := t.framer.pkt, pktLen := BitVec.ofNat 4 bytes.length, txIdx := 0 }
        ctl := { s.ctl with fsm := .tx, cmplStatus := .ok, cmplCmd := cmd } }

/-- `t` is what sending these bytes makes of `s` with this device state: loaded with the link up (R100), completed
TransportUnavailable with the link down (R99). -/
def SentFrom (d : Device) (cmd : Byte) (bytes : List Byte) (s t : State) : Prop :=
  (s.pins.linkUp = true → LoadedWith d cmd bytes s t) ∧
  (s.pins.linkUp = false → t = completedAs d .transportUnavailable cmd s)

/-- What every edge without reset does besides its control part: the parser steps where a byte is valid, and the script
and the edge count move on. -/
def afterEdge (s t : State) : State :=
  { t with rx := if s.pins.rxValid then rxStep s.pins.rxData s.rx else s.rx, inputs := s.inputs.tail, edge := s.edge + 1 }

/-- An edge that the block runs: a legal configuration, and neither `rst` nor `teardown`. -/
def Running (s : State) : Prop := legalConfig s.cfg = true ∧ s.pins.rst = false ∧ s.pins.teardown = false

/-- Pins without reset or teardown. -/
def NoReset (p : Pins) : Prop := p.rst = false ∧ p.teardown = false

/-- `n` edges, as the host runs them. -/
def runEdges (n : Nat) (s : State) : Host.Outcome State Fault Refusal := Host.Core.run Sys2Proof.core n s

/-- The transfers of the next `n` edges, in order (R30). -/
def observe : Nat → State → List Transfers
  | 0, _ => []
  | n + 1, s =>
    s.transfers ::
      match step s with
      | .next t => observe n t
      | .fault _ => []
      | .refused _ => []

/-- A safe run of `n` edges: no fault and no refusal. -/
def Safe (n : Nat) (s : State) : Prop := ∃ t, runEdges n s = .next t

/-- The end of a run on a finite event sequence (R144): in `n` edges from `s` exactly these events have been taken, the
completion of each has been shown, and the block is in IDLE. An event offered while the block is busy and then dropped is
not taken, and an event cut by `rst` or `teardown` shows no completion: neither run has ended. -/
def runEnded (events : List EventWord) (n : Nat) (s : State) : Bool :=
  (records (observe n s)).map Prod.fst == events && (records (observe n s)).all (·.2.isSome) &&
    match runEdges n s with
    | .next t => t.ctl.fsm == .idle
    | .fault _ => false
    | .refused _ => false

/-- The device state that an event word leaves and the packet that it calls for: what its meaning writes with the link
open. A malformed word leaves the device state and calls for none (R88). -/
def takeWord (c : Config) (d : Device) (w : EventWord) : Device × List Byte :=
  match decodeEvent w with
  | .error _ => (d, [])
  | .ok i =>
    match exec i { State.resetWith c [quietPins] 0 with dev := d } with
    | .next t => (t.dev, if t.ctl.fsm = .tx then t.framer.pkt.toList.take t.framer.pktLen.toNat else [])
    | .fault _ => (d, [])
    | .refused _ => (d, [])

/-- A run's result by its records alone (R144): the device state after its events, and one packet for each event that
called for one and is not recorded TransportUnavailable, in event order. -/
def runResult (c : Config) (d : Device) : List (EventWord × Option (BitVec 4 × Byte)) → Device × List Byte
  | [] => (d, [])
  | (w, k) :: rs =>
    let after := runResult c (takeWord c d w).1 rs
    (after.1,
      (if k.map Prod.fst = some (statusCode .transportUnavailable) then [] else (takeWord c d w).2) ++ after.2)

end Sys2Proof.Machine
end

