-- ==== Sys2Proof/Certificates/Slice0/Obligations.lean ====
section
/-! DEFINITION. The statements for the provers, in the vocabulary of Safety.lean. -/

open Sys2Proof Sys2Proof.Machine

/-- Every well-formed instruction's encoding decodes to it, with every operand at every value its encoding admits. -/
def Obligations.DecodeOfEncodeIsTheInstruction : Prop :=
  ∀ i : Instr, i.wellFormed = true → decode (encode i) = .ok i

/-- An event word decodes to an instruction exactly when it is that instruction's encoding (R56). -/
def Obligations.EventDecodeInvertsEncode : Prop :=
  ∀ (e : EventWord) (i : Instr), decodeEvent e = .ok i ↔ encode i = .event e

/-- A packet's bytes decode to an instruction and a rest exactly when they are its encoding and the rest. -/
def Obligations.PacketDecodeInvertsEncode : Prop :=
  ∀ (bytes rest : List Byte) (i : Instr),
    decodePacket bytes = .ok (i, rest) ↔ ∃ front, encode i = .packet front ∧ bytes = front ++ rest

/-- Words written out from the spec's encodings decode to what they stand for. -/
def Obligations.TableWordsDecodeAsWritten : Prop :=
  decodeTableWord 40 0x0000000141 = some (.keydown 65 true) ∧
  decodeTableWord 40 0x0240064064 = some (.movea 100 100 true) ∧
  decodeTableWord 40 0x02800080FF = some (.mover 0x80 0xFF false) ∧
  decodeTableWord 40 0xFF00000000 = some .reset ∧
  decodeTableWord 40 0x57AB000F00 = some (.pktRst 0) ∧
  decodeTableWord 32 0x57AB0082 = some (.replyOk 2 0 0 0)

/-- A step runs the instruction that the edge fetches: in IDLE the event word taken, in TX the packet in the buffer, in
WAIT the reply frame whose checksum byte is taken. Around it the parser steps and the script moves on. -/
def Obligations.StepRunsTheFetchedInstruction : Prop :=
  ∀ (s t : State) (i : Instr), Running s → exec i s = .next t →
    ((s.ctl.fsm = .idle ∧ s.pins.evtValid = true ∧ decodeEvent s.pins.evtData = .ok i) ∨
     (s.ctl.fsm = .tx ∧ ∃ rest, decodePacket s.framer.pkt.toList = .ok (i, rest)) ∨
     (s.ctl.fsm = .wait ∧ s.pins.rxValid = true ∧ s.rx.rxSt = .sum ∧
      replyOfCode s.rx.rxCmd s.rx.rxLen (s.rx.rxSum - additive [0x57, 0xAB, 0x00, s.rx.rxCmd, s.rx.rxLen])
        s.pins.rxData = some i)) →
    step s = .next (afterEdge s t)

/-- A table word placed by `withFetchWord` is what the next edge fetches, and that edge is no reset. -/
def Obligations.PlacedWordIsFetched : Prop :=
  ∀ (s : State) (nbits w : Nat) (i : Instr), decodeTableWord nbits w = some i →
    (s.withFetchWord nbits w).fetch = some i ∧ (s.withFetchWord nbits w).resetting = false ∧
    (s.withFetchWord nbits w).cfg = s.cfg ∧ (s.withFetchWord nbits w).dev = s.dev

/-- In IDLE without an event nothing changes but the parser (R107). -/
def Obligations.IdleEdgeWithoutEventKeepsState : Prop :=
  ∀ s : State, Running s → s.ctl.fsm = .idle → s.pins.evtValid = false → step s = .next (afterEdge s s)

/-- DONE shows the completion for one cycle and the next edge is IDLE, whatever the inputs but reset and teardown; the
record keeps its value in IDLE until an event is taken (R111). -/
def Obligations.DoneShowsCompletionForOneCycle : Prop :=
  ∀ s : State, Running s →
    (s.ctl.fsm = .done →
      s.outputs.cmplValid = true ∧ s.outputs.cmplStatus = statusCode s.ctl.cmplStatus ∧
      s.outputs.cmplCmd = s.ctl.cmplCmd ∧ step s = .next (afterEdge s { s with ctl := { s.ctl with fsm := .idle } })) ∧
    (s.ctl.fsm = .idle → s.pins.evtValid = false → ∃ t, step s = .next t ∧ t.outputs = s.outputs ∧
      t.outputs.cmplValid = false)

/-- An edge with `rst` or `teardown` resets every register and transfers nothing (R128 to R130). That no transfer is
observed at such an edge, whatever the handshakes say, is the model's reading of R128 beside R14 (log entry 9). -/
def Obligations.ResetEdgeResetsEveryRegister : Prop :=
  ∀ s : State, legalConfig s.cfg = true → (s.pins.rst = true ∨ s.pins.teardown = true) →
    s.transfers = { event := none, completion := none, txByte := none, rxByte := none } ∧
    ∃ t, step s = .next t ∧ t.cfg = s.cfg ∧ t.inputs = s.inputs.tail ∧ t.edge = s.edge + 1 ∧
      t.dev.kbd.kbdMod = 0x00 ∧ (∀ i : Fin 6, t.dev.kbd.kbdSlot[i] = 0x00) ∧ t.dev.mouse.msBtn = 0x00 ∧
      t.dev.mouse.msX = 0 ∧ t.dev.mouse.msY = 0 ∧ t.dev.oob = false ∧
      (∀ i : Fin 14, t.framer.pkt[i] = 0) ∧ t.framer.pktLen = 0 ∧ t.framer.txIdx = 0 ∧ t.ctl.fsm = .idle ∧
      t.ctl.pendCmd = 0 ∧ t.ctl.pendTimer = 0 ∧ statusCode t.ctl.cmplStatus = 0 ∧ t.ctl.cmplCmd = 0 ∧
      t.rx.rxSt = .h0 ∧ t.rx.rxCmd = 0 ∧ t.rx.rxLen = 0 ∧ t.rx.rxCnt = 0 ∧ t.rx.rxSum = 0 ∧
      t.outputs.evtReady = true ∧ t.outputs.txValid = false ∧ t.outputs.cmplValid = false

/-- Booting as R132 orders it, from any state and however long each part lasts: the block is in IDLE with an empty
device state and has sent nothing on its own (R131); then RESET, taken as the first event, is about to send the soft-reset
packet, or, with the link left closed, is complete with TransportUnavailable. -/
def Obligations.BootSequenceSendsSoftReset : Prop :=
  ∀ (s : State) (link : Bool) (resets released opened : List Pins) (offer : Pins) (rest : List Pins),
    legalConfig s.cfg = true → Boots link resets released opened → offersReset link offer →
    s.inputs = (resets ++ released ++ opened) ++ offer :: rest →
    ∃ u t, runEdges (resets ++ released ++ opened).length s = .next u ∧ step u = .next t ∧
      (observe ((resets ++ released ++ opened).length + 1) s).filterMap (·.txByte) = [] ∧
      u.ctl.fsm = .idle ∧ u.ctl.cmplStatus = .ok ∧ u.ctl.cmplCmd = 0x00 ∧ u.cfg = s.cfg ∧
      u.dev = { kbd := { kbdMod := 0x00, kbdSlot := #v[0, 0, 0, 0, 0, 0] }, mouse := { msBtn := 0x00, msX := 0, msY := 0 }
                oob := false } ∧
      t.inputs = rest ∧ t.cfg = s.cfg ∧ t.dev = u.dev ∧ t.ctl.cmplCmd = 0x0F ∧
      (link = true → t.ctl.fsm = .tx ∧ t.framer.txIdx = 0 ∧ t.framer.pktLen = 6 ∧
        t.framer.pkt.toList.take 6 = rstPacket) ∧
      (link = false → t.ctl.fsm = .done ∧ t.ctl.cmplStatus = .transportUnavailable)

/-- A step is refused exactly where the configuration is outside the legal ranges of R2, R3 and R5. -/
def Obligations.IllegalConfigurationIsRefused : Prop :=
  ∀ s : State, step s = .refused .illegalConfiguration ↔
    ¬(1 ≤ s.cfg.scrollSens.toNat ∧ s.cfg.scrollSens.toNat ≤ 0x7E ∧ 1 ≤ s.cfg.tReply ∧
      (∀ (kc : Byte) (r : Bool), keymap s.cfg kc r ≠ some 0x00) ∧ keymap s.cfg 65 false = some 0x04 ∧
      modmap s.cfg 65 = none ∧ modmap s.cfg 17 = some .ctrl)

/-- With a legal configuration no number of edges ends in a fault or a refusal: the block never traps, and breaking a
host duty is no reason to stop. -/
def Obligations.LegalConfigurationNeverStops : Prop :=
  ∀ (n : Nat) (s : State), legalConfig s.cfg = true → ∃ t, runEdges n s = .next t ∧ t.cfg = s.cfg

/-- A word with an unassigned opcode or a reserved bit set completes InvalidOpcode and changes nothing else (R55,
R88). -/
def Obligations.MalformedWordCompletesInvalidOpcode : Prop :=
  ∀ s : State, Running s → s.ctl.fsm = .idle → s.pins.evtValid = true →
    (∀ row ∈ eventRows, s.pins.evtData &&& row.1 ≠ row.2) →
    step s = .next (afterEdge s (completedAs s.dev .invalidOpcode 0x00 s))

/-- KEYDOWN of a modifier key sets exactly its bit, or is a no-op where the bit is set (R70). -/
def Obligations.KeydownOfModifierSetsItsBit : Prop :=
  ∀ (s : State) (kc : Byte) (r : Bool) (m : Modifier), modmap s.cfg kc = some m →
    (s.dev.kbd.kbdMod.getLsbD (modifierIndex m + if r then 4 else 0) = true →
      exec (.keydown kc r) s = .next (completedAs s.dev .ok 0x00 s)) ∧
    (s.dev.kbd.kbdMod.getLsbD (modifierIndex m + if r then 4 else 0) = false →
      ∃ (t : State) (mod : Byte), exec (.keydown kc r) s = .next t ∧
        (∀ k < 8, mod.getLsbD k =
          (s.dev.kbd.kbdMod.getLsbD k || decide (k = modifierIndex m + if r then 4 else 0))) ∧
        SentFrom { s.dev with kbd := { s.dev.kbd with kbdMod := mod } } 0x02 (kbdReport mod s.dev.kbd.kbdSlot) s t)

/-- KEYDOWN of a non-modifier key: unsupported, already held, into the first empty slot, or slots exhausted, in that
order (R71). -/
def Obligations.KeydownOfKeyFillsFirstEmptySlot : Prop :=
  ∀ (s : State) (kc : Byte) (r : Bool), modmap s.cfg kc = none →
    (keymap s.cfg kc r = none → exec (.keydown kc r) s = .next (completedAs s.dev .unsupportedKey 0x00 s)) ∧
    ∀ u, keymap s.cfg kc r = some u →
      ((∃ i : Fin 6, s.dev.kbd.kbdSlot[i] = u) → exec (.keydown kc r) s = .next (completedAs s.dev .ok 0x00 s)) ∧
      ((∀ i : Fin 6, s.dev.kbd.kbdSlot[i] ≠ u) →
        ((∀ i : Fin 6, s.dev.kbd.kbdSlot[i] ≠ 0x00) →
          exec (.keydown kc r) s = .next (completedAs s.dev .keyboardSlotsExhausted 0x00 s)) ∧
        ∀ i : Fin 6, s.dev.kbd.kbdSlot[i] = 0x00 → (∀ j < i, s.dev.kbd.kbdSlot[j] ≠ 0x00) →
          ∃ (t : State) (slots : Slots), exec (.keydown kc r) s = .next t ∧ slots[i] = u ∧
            (∀ j, j ≠ i → slots[j] = s.dev.kbd.kbdSlot[j]) ∧
            SentFrom { s.dev with kbd := { s.dev.kbd with kbdSlot := slots } } 0x02
              (kbdReport s.dev.kbd.kbdMod slots) s t)

/-- KEYUP of a modifier key clears exactly the bit of its own side, or is a no-op where it is clear (R73). -/
def Obligations.KeyupOfModifierClearsItsBit : Prop :=
  ∀ (s : State) (kc : Byte) (r : Bool) (m : Modifier), modmap s.cfg kc = some m →
    (s.dev.kbd.kbdMod.getLsbD (modifierIndex m + if r then 4 else 0) = false →
      exec (.keyup kc r) s = .next (completedAs s.dev .ok 0x00 s)) ∧
    (s.dev.kbd.kbdMod.getLsbD (modifierIndex m + if r then 4 else 0) = true →
      ∃ (t : State) (mod : Byte), exec (.keyup kc r) s = .next t ∧
        (∀ k < 8, mod.getLsbD k =
          (s.dev.kbd.kbdMod.getLsbD k && !decide (k = modifierIndex m + if r then 4 else 0))) ∧
        SentFrom { s.dev with kbd := { s.dev.kbd with kbdMod := mod } } 0x02 (kbdReport mod s.dev.kbd.kbdSlot) s t)

/-- KEYUP of a non-modifier key: unsupported where it has no mapping, a no-op where no slot holds its usage, else the
slot that holds it becomes empty and no other changes (R72, R74). Where a state that no run reaches holds it twice, the
first is emptied: the model's reading (log entry 13). -/
def Obligations.KeyupOfKeyEmptiesItsSlot : Prop :=
  ∀ (s : State) (kc : Byte) (r : Bool), modmap s.cfg kc = none →
    (keymap s.cfg kc r = none → exec (.keyup kc r) s = .next (completedAs s.dev .unsupportedKey 0x00 s)) ∧
    ∀ u, keymap s.cfg kc r = some u →
      ((∀ i : Fin 6, s.dev.kbd.kbdSlot[i] ≠ u) → exec (.keyup kc r) s = .next (completedAs s.dev .ok 0x00 s)) ∧
      ∀ i : Fin 6, s.dev.kbd.kbdSlot[i] = u → (∀ j < i, s.dev.kbd.kbdSlot[j] ≠ u) →
        ∃ (t : State) (slots : Slots), exec (.keyup kc r) s = .next t ∧ slots[i] = 0x00 ∧
          (∀ j, j ≠ i → slots[j] = s.dev.kbd.kbdSlot[j]) ∧
          SentFrom { s.dev with kbd := { s.dev.kbd with kbdSlot := slots } } 0x02
            (kbdReport s.dev.kbd.kbdMod slots) s t

/-- A KEYDOWN that calls for a packet followed by its KEYUP gives back the exact device state, and the KEYUP calls for a
packet too; where the KEYDOWN is a no-op, because the key is held, the KEYUP releases it (R76). -/
def Obligations.KeydownThenKeyupRestoresKeyboard : Prop :=
  ∀ (s s1 s2 : State) (kc : Byte) (r : Bool), exec (.keydown kc r) s = .next s1 → s2.cfg = s.cfg → s2.dev = s1.dev →
    (s1.ctl.cmplCmd = 0x02 → ∃ t, exec (.keyup kc r) s2 = .next t ∧ t.dev = s.dev ∧ t.ctl.cmplCmd = 0x02) ∧
    (legalConfig s.cfg = true → s1.ctl.cmplStatus = .ok → s1.ctl.cmplCmd = 0x00 →
      ∃ t, exec (.keyup kc r) s2 = .next t ∧ t.dev.kbd ≠ s.dev.kbd ∧ t.ctl.cmplCmd = 0x02)

/-- A keyboard event calls for a keyboard report exactly when it changes the keyboard state; where it does not, nothing
but the completion record changes, and the status is OK or that of a rejected key (R75). -/
def Obligations.KeyboardReportExactlyOnChange : Prop :=
  ∀ (s t : State) (kc : Byte) (r : Bool), legalConfig s.cfg = true →
    (exec (.keydown kc r) s = .next t ∨ exec (.keyup kc r) s = .next t) →
    (t.ctl.cmplCmd = 0x02 ↔ t.dev.kbd ≠ s.dev.kbd) ∧
    (t.dev.kbd = s.dev.kbd → t = completedAs s.dev t.ctl.cmplStatus 0x00 s ∧
      t.ctl.cmplStatus ∈ [.ok, .unsupportedKey, .keyboardSlotsExhausted])

/-- MOVEA: suppressed outside the capture area with the guard on, else the position is stored and the absolute packet
called for (R79). -/
def Obligations.MoveaStoresPositionAndSends : Prop :=
  ∀ (s : State) (x y : Coord) (out : Bool),
    (s.cfg.oobGuard = true ∧ out = true →
      exec (.movea x y out) s = .next (completedAs { s.dev with oob := true } .suppressed 0x00 s)) ∧
    (s.cfg.oobGuard = false ∨ out = false →
      ∃ t, exec (.movea x y out) s = .next t ∧
        SentFrom { s.dev with
            mouse := { msBtn := s.dev.mouse.msBtn, msX := BitVec.ofNat 16 x.toNat, msY := BitVec.ofNat 16 y.toNat }
            oob := if s.cfg.oobGuard then false else s.dev.oob }
          0x04 (absReport s.dev.mouse.msBtn x.toNat y.toNat) s t)

/-- MOVER: suppressed outside the capture area with the guard on, else the relative packet is called for with the deltas
remapped and a wheel byte of 0; the stored position does not change (R80). -/
def Obligations.MoverSendsRemappedDeltas : Prop :=
  ∀ (s : State) (dx dy : Byte) (out : Bool),
    (s.cfg.oobGuard = true ∧ out = true →
      exec (.mover dx dy out) s = .next (completedAs { s.dev with oob := true } .suppressed 0x00 s)) ∧
    (s.cfg.oobGuard = false ∨ out = false →
      ∃ t, exec (.mover dx dy out) s = .next t ∧
        SentFrom { s.dev with oob := if s.cfg.oobGuard then false else s.dev.oob }
          0x05 (relReport s.dev.mouse.msBtn dx dy 0x00) s t)

/-- The two delta bytes in a MOVER's packet: `0x80` goes out as `0x81`, every other byte as it is, never `0x80`; the wheel
byte of a SCROLL and the coordinates of a MOVEA are not remapped (R98). -/
def Obligations.OnlyDeltaBytesAreRemapped : Prop :=
  ∀ (s t : State), s.pins.linkUp = true →
    (∀ dx dy out, (s.cfg.oobGuard = false ∨ out = false) → exec (.mover dx dy out) s = .next t →
      t.framer.pkt[7] = (if dx = 0x80 then 0x81 else dx) ∧ t.framer.pkt[8] = (if dy = 0x80 then 0x81 else dy) ∧
      t.framer.pkt[7] ≠ 0x80 ∧ t.framer.pkt[8] ≠ 0x80) ∧
    (∀ tilt : Byte, tilt ≠ 0 → (s.cfg.oobGuard = false ∨ s.dev.oob = false) → exec (.scroll tilt) s = .next t →
      t.framer.pkt[9] = if tilt.toInt < 0 then s.cfg.scrollSens else 0xFF - s.cfg.scrollSens) ∧
    (∀ x y out, (s.cfg.oobGuard = false ∨ out = false) → exec (.movea x y out) s = .next t →
      t.framer.pkt[7].toNat = x.toNat % 256 ∧ t.framer.pkt[8].toNat = x.toNat / 256 ∧
      t.framer.pkt[9].toNat = y.toNat % 256 ∧ t.framer.pkt[10].toNat = y.toNat / 256)

/-- BTNDOWN: a bad index is InvalidOpcode before the guard; the guard suppresses; else the button's bit is set and the
zero-delta relative packet called for, changed or not (R81). -/
def Obligations.BtndownSetsItsBit : Prop :=
  ∀ (s : State) (btn : Byte),
    ((btn.toNat < 1 ∨ 3 < btn.toNat) → exec (.btndown btn) s = .next (completedAs s.dev .invalidOpcode 0x00 s)) ∧
    (1 ≤ btn.toNat ∧ btn.toNat ≤ 3 →
      (s.cfg.oobGuard = true ∧ s.dev.oob = true →
        exec (.btndown btn) s = .next (completedAs s.dev .suppressed 0x00 s)) ∧
      (s.cfg.oobGuard = false ∨ s.dev.oob = false →
        ∃ (t : State) (b : Byte), exec (.btndown btn) s = .next t ∧
          (∀ k < 8, b.getLsbD k = (s.dev.mouse.msBtn.getLsbD k || decide (k + 1 = btn.toNat))) ∧
          SentFrom { s.dev with mouse := { s.dev.mouse with msBtn := b } } 0x05 (relReport b 0x00 0x00 0x00) s t))

/-- BTNUP: a bad index is InvalidOpcode before the guard; the guard suppresses; index 0 clears the whole bitmask, a
button its own bit, and the zero-delta relative packet is called for, changed or not (R82). -/
def Obligations.BtnupClearsItsBitOrAll : Prop :=
  ∀ (s : State) (btn : Byte),
    (3 < btn.toNat → exec (.btnup btn) s = .next (completedAs s.dev .invalidOpcode 0x00 s)) ∧
    (btn.toNat ≤ 3 →
      (s.cfg.oobGuard = true ∧ s.dev.oob = true →
        exec (.btnup btn) s = .next (completedAs s.dev .suppressed 0x00 s)) ∧
      (s.cfg.oobGuard = false ∨ s.dev.oob = false →
        ∃ (t : State) (b : Byte), exec (.btnup btn) s = .next t ∧
          (∀ k < 8, b.getLsbD k =
            (s.dev.mouse.msBtn.getLsbD k && !decide (btn = 0x00) && !decide (k + 1 = btn.toNat))) ∧
          SentFrom { s.dev with mouse := { s.dev.mouse with msBtn := b } } 0x05 (relReport b 0x00 0x00 0x00) s t))

/-- SCROLL: the guard suppresses, even a tilt of 0; a tilt of 0 is a no-op; else one relative packet carries the wheel byte
(R83). -/
def Obligations.ScrollSendsWheelByte : Prop :=
  ∀ (s : State) (tilt : Byte),
    (s.cfg.oobGuard = true ∧ s.dev.oob = true →
      exec (.scroll tilt) s = .next (completedAs s.dev .suppressed 0x00 s)) ∧
    (s.cfg.oobGuard = false ∨ s.dev.oob = false →
      (tilt.toInt = 0 → exec (.scroll tilt) s = .next (completedAs s.dev .ok 0x00 s)) ∧
      (tilt.toInt < 0 → ∃ t, exec (.scroll tilt) s = .next t ∧
        SentFrom s.dev 0x05 (relReport s.dev.mouse.msBtn 0x00 0x00 s.cfg.scrollSens) s t) ∧
      (0 < tilt.toInt → ∃ t, exec (.scroll tilt) s = .next t ∧
        SentFrom s.dev 0x05 (relReport s.dev.mouse.msBtn 0x00 0x00 (BitVec.ofNat 8 (255 - s.cfg.scrollSens.toNat))) s t))

/-- With a legal sensitivity the wheel byte of a negative tilt lies in `0x01..0x7E` and that of a positive one in
`0x81..0xFE` (R84). -/
def Obligations.WheelByteTellsTheDirection : Prop :=
  ∀ (s t : State) (tilt : Byte), legalConfig s.cfg = true → s.pins.linkUp = true →
    (s.cfg.oobGuard = false ∨ s.dev.oob = false) → exec (.scroll tilt) s = .next t →
    (tilt.toInt < 0 → t.framer.pkt[9] = s.cfg.scrollSens ∧ 0x01 ≤ t.framer.pkt[9].toNat ∧
      t.framer.pkt[9].toNat ≤ 0x7E) ∧
    (0 < tilt.toInt → t.framer.pkt[9].toNat = 255 - s.cfg.scrollSens.toNat ∧ 0x81 ≤ t.framer.pkt[9].toNat ∧
      t.framer.pkt[9].toNat ≤ 0xFE)

/-- The checks of a mouse event in order: operand, guard, no-op, send; the first that applies decides, whatever the
later ones would say (R86). -/
def Obligations.MouseChecksRunInOrder : Prop :=
  ∀ (s t : State),
    (∀ btn : Byte, 3 < btn.toNat → (exec (.btndown btn) s = .next t ∨ exec (.btnup btn) s = .next t) →
      t.ctl.cmplStatus = .invalidOpcode) ∧
    (exec (.btndown 0) s = .next t → t.ctl.cmplStatus = .invalidOpcode) ∧
    (s.cfg.oobGuard = true → s.dev.oob = true → ∀ tilt : Byte, exec (.scroll tilt) s = .next t →
      t.ctl.cmplStatus = .suppressed) ∧
    (s.cfg.oobGuard = true → s.dev.oob = true → ∀ btn : Byte, btn.toNat ≤ 3 →
      (exec (.btnup btn) s = .next t ∨ (btn ≠ 0 ∧ exec (.btndown btn) s = .next t)) → t.ctl.cmplStatus = .suppressed) ∧
    (s.cfg.oobGuard = true → ∀ i : Instr,
      ((∃ x y, i = .movea x y true) ∨ ∃ dx dy, i = .mover dx dy true) → exec i s = .next t →
      t.ctl.cmplStatus = .suppressed) ∧
    ((s.cfg.oobGuard = false ∨ s.dev.oob = false) → exec (.scroll 0) s = .next t → t.ctl.cmplStatus = .ok ∧ t.ctl.cmplCmd = 0x00) ∧
    (s.pins.linkUp = false → ∀ i : Instr,
      ((∃ x y out, (s.cfg.oobGuard = false ∨ out = false) ∧ i = .movea x y out) ∨
       (∃ dx dy out, (s.cfg.oobGuard = false ∨ out = false) ∧ i = .mover dx dy out) ∨
       ((s.cfg.oobGuard = false ∨ s.dev.oob = false) ∧
        ((∃ b : Byte, 1 ≤ b.toNat ∧ b.toNat ≤ 3 ∧ i = .btndown b) ∨ (∃ b : Byte, b.toNat ≤ 3 ∧ i = .btnup b) ∨
         ∃ tilt : Byte, tilt ≠ 0 ∧ i = .scroll tilt))) → exec i s = .next t →
      t.ctl.cmplStatus = .transportUnavailable)

/-- Only a mouse event with the guard on is suppressed, and a suppressed event changes neither keyboard, mouse nor packet
buffer (R78). -/
def Obligations.OnlyGuardedMouseEventsAreSuppressed : Prop :=
  ∀ (s t : State) (i : Instr), isEvent i = true → exec i s = .next t → t.ctl.cmplStatus = .suppressed →
    isMouse i = true ∧ s.cfg.oobGuard = true ∧ t.dev.oob = true ∧
    t = completedAs { s.dev with oob := true } .suppressed 0x00 s

/-- RESET clears the keyboard and mouse state, keeps `oob`, and calls for the soft-reset packet (R87). -/
def Obligations.ResetEventClearsDeviceState : Prop :=
  ∀ s : State, ∃ t, exec .reset s = .next t ∧
    SentFrom { kbd := { kbdMod := 0x00, kbdSlot := #v[0, 0, 0, 0, 0, 0] }, mouse := { msBtn := 0x00, msX := 0, msY := 0 }
               oob := s.dev.oob } 0x0F rstPacket s t

/-- A packet called for in IDLE is loaded, or turned away by a closed link, with the device state as it is. -/
def Obligations.PacketCalledForIsLoaded : Prop :=
  ∀ s : State, s.ctl.fsm = .idle →
    (∀ (mod rsv : Byte) (slots : Slots) (cks : Byte), ∃ t, exec (.pktKbd mod rsv slots cks) s = .next t ∧
      SentFrom s.dev 0x02 [0x57, 0xAB, 0x00, 0x02, 0x08, mod, rsv, slots[0], slots[1], slots[2], slots[3], slots[4],
        slots[5], cks] s t) ∧
    (∀ (mode btn : Byte) (x y : Word16) (scr cks : Byte), ∃ t, exec (.pktAbs mode btn x y scr cks) s = .next t ∧
      SentFrom s.dev 0x04 [0x57, 0xAB, 0x00, 0x04, 0x07, mode, btn, BitVec.ofNat 8 (x.toNat % 256),
        BitVec.ofNat 8 (x.toNat / 256), BitVec.ofNat 8 (y.toNat % 256), BitVec.ofNat 8 (y.toNat / 256), scr, cks] s t) ∧
    (∀ mode btn dx dy w cks : Byte, ∃ t, exec (.pktRel mode btn dx dy w cks) s = .next t ∧
      SentFrom s.dev 0x05 [0x57, 0xAB, 0x00, 0x05, 0x05, mode, btn, dx, dy, w, cks] s t) ∧
    (∀ cks : Byte, ∃ t, exec (.pktRst cks) s = .next t ∧
      SentFrom s.dev 0x0F [0x57, 0xAB, 0x00, 0x0F, 0x00, cks] s t)

/-- The packet that an event's Send builds is a well-formed packet instruction, byte for byte, and ends with its
checksum. -/
def Obligations.BuiltPacketsAreWellFormed : Prop :=
  ∀ (c : Config) (d : Device) (p : PacketCall), DeviceInv c d →
    (∃ i : Instr, i.wellFormed = true ∧ isPacket i = true ∧ encode i = .packet (buildPacket d p) ∧
      decodePacket (buildPacket d p) = .ok (i, [])) ∧
    buildPacket d p = closed (buildPacket d p).dropLast

/-- In TX the packet's next byte is offered; without `tx_ready` nothing changes, with it the index moves on, and after the
checksum byte the PendingReply is registered (R101, R108). -/
def Obligations.PacketByteIsSentInTx : Prop :=
  ∀ (s : State) (i : Instr), isPacket i = true → s.ctl.fsm = .tx →
    s.outputs.txValid = true ∧ (∀ k : Fin 14, s.framer.txIdx.toNat = k → s.outputs.txData = s.framer.pkt[k]) ∧
    (s.pins.txReady = false → exec i s = .next s) ∧
    (s.pins.txReady = true → s.framer.txIdx + 1 ≠ s.framer.pktLen →
      exec i s = .next { s with framer := { s.framer with txIdx := s.framer.txIdx + 1 } }) ∧
    (s.pins.txReady = true → s.framer.txIdx + 1 = s.framer.pktLen →
      exec i s = .next { s with
        ctl := { s.ctl with pendCmd := s.framer.pkt[3], pendTimer := s.cfg.tReply, fsm := .wait } })

/-- From the first byte, however the sink stalls: the bytes taken are the packet's, in index order, none repeated or
skipped, and the edge that takes the last registers the PendingReply. -/
def Obligations.PacketGoesOutByteByByte : Prop :=
  ∀ (s : State) (ps rest : List Pins), legalConfig s.cfg = true → s.ctl.fsm = .tx → s.framer.txIdx = 0 →
    s.framer.pktLen.toNat ≤ 14 → s.inputs = ps ++ rest → (∀ p ∈ ps, NoReset p) →
    (ps.countP (·.txReady) < s.framer.pktLen.toNat →
      ∃ t, runEdges ps.length s = .next t ∧ t.ctl = s.ctl ∧ t.dev = s.dev ∧ t.framer.pkt = s.framer.pkt ∧
        t.framer.pktLen = s.framer.pktLen ∧ t.framer.txIdx.toNat = ps.countP (·.txReady) ∧
        (observe ps.length s).filterMap (·.txByte) = s.framer.pkt.toList.take (ps.countP (·.txReady))) ∧
    (∀ qs p, ps = qs ++ [p] → p.txReady = true → qs.countP (·.txReady) + 1 = s.framer.pktLen.toNat →
      ∃ t, runEdges ps.length s = .next t ∧ t.dev = s.dev ∧
        t.ctl = { s.ctl with pendCmd := s.framer.pkt[3], pendTimer := s.cfg.tReply, fsm := .wait } ∧
        (observe ps.length s).filterMap (·.txByte) = s.framer.pkt.toList.take s.framer.pktLen.toNat)

/-- A reply frame in WAIT: a bad checksum, the success code and the error code of the pending command resolve the wait,
in that order; any other code is ignored and the timer counts. -/
def Obligations.ReplyResolvesTheWait : Prop :=
  ∀ (s : State) (cmd : BitVec 6) (len paySum cks code : Byte) (i : Instr), s.ctl.fsm = .wait →
    ((i = .replyOk cmd len paySum cks ∧ code.toNat = 0x80 + cmd.toNat) ∨
     (i = .replyErr cmd len paySum cks ∧ code.toNat = 0xC0 + cmd.toNat)) →
    (cks ≠ additive [0x57, 0xAB, 0x00, code, len, paySum] →
      exec i s = .next (completedAs s.dev .checksumMismatch s.ctl.cmplCmd s)) ∧
    (cks = additive [0x57, 0xAB, 0x00, code, len, paySum] →
      (code = s.ctl.pendCmd ||| 0x80 → exec i s = .next (completedAs s.dev .ok s.ctl.cmplCmd s)) ∧
      (code ≠ s.ctl.pendCmd ||| 0x80 →
        (code = s.ctl.pendCmd ||| 0xC0 → exec i s = .next (completedAs s.dev .deviceError s.ctl.cmplCmd s)) ∧
        (code ≠ s.ctl.pendCmd ||| 0xC0 →
          (s.ctl.pendTimer = 1 → exec i s = .next (completedAs s.dev .replyTimeout s.ctl.cmplCmd s)) ∧
          (1 < s.ctl.pendTimer →
            exec i s = .next { s with ctl := { s.ctl with pendTimer := s.ctl.pendTimer - 1 } }))))

/-- A frame outside WAIT is thrown away: as an instruction it changes nothing, and at an edge the RX bytes and the parser's
registers have no effect on anything but the parser's registers (R106). -/
def Obligations.FrameOutsideWaitIsThrownAway : Prop :=
  (∀ (s : State) (cmd : BitVec 6) (len paySum cks : Byte), s.ctl.fsm ≠ .wait →
    exec (.replyOk cmd len paySum cks) s = .next s ∧ exec (.replyErr cmd len paySum cks) s = .next s) ∧
  ∀ (s t u : State) (p : Pins) (regs : RxRegs) (v : Bool) (b : Byte), s.ctl.fsm ≠ .wait →
    step (s.withPins p) = .next t →
    step (({ s with rx := regs } : State).withPins { p with rxValid := v, rxData := b }) = .next u →
    u = { t with rx := u.rx }

/-- A frame that ends in WAIT is judged against the PendingReply, whatever its code (R109). -/
def Obligations.FrameInWaitIsJudged : Prop :=
  ∀ s : State, Running s → s.ctl.fsm = .wait → s.pins.rxValid = true → s.rx.rxSt = .sum →
    (s.pins.rxData ≠ s.rx.rxSum →
      step s = .next (afterEdge s (completedAs s.dev .checksumMismatch s.ctl.cmplCmd s))) ∧
    (s.pins.rxData = s.rx.rxSum → s.rx.rxCmd = s.ctl.pendCmd ||| 0x80 →
      step s = .next (afterEdge s (completedAs s.dev .ok s.ctl.cmplCmd s))) ∧
    (s.pins.rxData = s.rx.rxSum → s.rx.rxCmd ≠ s.ctl.pendCmd ||| 0x80 → s.rx.rxCmd = s.ctl.pendCmd ||| 0xC0 →
      step s = .next (afterEdge s (completedAs s.dev .deviceError s.ctl.cmplCmd s))) ∧
    (s.pins.rxData = s.rx.rxSum → s.rx.rxCmd ≠ s.ctl.pendCmd ||| 0x80 → s.rx.rxCmd ≠ s.ctl.pendCmd ||| 0xC0 →
      1 < s.ctl.pendTimer →
      step s = .next (afterEdge s { s with ctl := { s.ctl with pendTimer := s.ctl.pendTimer - 1 } }))

/-- An edge in WAIT at which no frame ends, or a frame for no pending command ends: the timer counts down, or ends the
wait with ReplyTimeout where it is 1. -/
def Obligations.WaitCountsDownToTimeout : Prop :=
  ∀ s : State, Running s → s.ctl.fsm = .wait →
    (s.pins.rxValid = false ∨ s.rx.rxSt ≠ .sum ∨
      (s.pins.rxData = s.rx.rxSum ∧ s.rx.rxCmd ≠ s.ctl.pendCmd ||| 0x80 ∧ s.rx.rxCmd ≠ s.ctl.pendCmd ||| 0xC0)) →
    (s.ctl.pendTimer = 1 → step s = .next (afterEdge s (completedAs s.dev .replyTimeout s.ctl.cmplCmd s))) ∧
    (1 < s.ctl.pendTimer →
      step s = .next (afterEdge s { s with ctl := { s.ctl with pendTimer := s.ctl.pendTimer - 1 } }))

/-- With no reply byte the wait ends at the edge its timer says, with ReplyTimeout, and nothing of the device state or
the parser changes. -/
def Obligations.SilentChipEndsInReplyTimeout : Prop :=
  ∀ (s : State) (ps rest : List Pins), legalConfig s.cfg = true → s.ctl.fsm = .wait → 1 ≤ s.ctl.pendTimer →
    ps.length = s.ctl.pendTimer → s.inputs = ps ++ rest → (∀ p ∈ ps, NoReset p ∧ p.rxValid = false) →
    runEdges ps.length s = .next { s with
      ctl := { s.ctl with pendTimer := 1, fsm := .done, cmplStatus := .replyTimeout }
      inputs := rest
      edge := s.edge + ps.length }

/-- Whatever the chip sends, the wait ends within the timer's edges, with one of the four reply statuses, and no reply
status undoes the state change or sends anything (R113). -/
def Obligations.WaitEndsWithinItsTimer : Prop :=
  ∀ (s : State) (ps rest : List Pins), legalConfig s.cfg = true → s.ctl.fsm = .wait → 1 ≤ s.ctl.pendTimer →
    ps.length = s.ctl.pendTimer → s.inputs = ps ++ rest → (∀ p ∈ ps, NoReset p) →
    ∃ (j : Nat) (t : State), 1 ≤ j ∧ j ≤ s.ctl.pendTimer ∧ runEdges j s = .next t ∧ t.ctl.fsm = .done ∧
      t.ctl.cmplStatus ∈ [.ok, .deviceError, .checksumMismatch, .replyTimeout] ∧ t.ctl.cmplCmd = s.ctl.cmplCmd ∧
      t.dev = s.dev ∧ t.framer = s.framer

/-- An event that sends nothing is complete after one edge and the block in IDLE after two; the second edge shows the
one completion. -/
def Obligations.EventWithoutPacketTakesTwoEdges : Prop :=
  ∀ (s t : State) (p q : Pins) (rest : List Pins) (i : Instr), legalConfig s.cfg = true → s.ctl.fsm = .idle →
    s.inputs = p :: q :: rest → NoReset p → NoReset q → p.evtValid = true → decodeEvent p.evtData = .ok i →
    exec i s = .next t → t.ctl.fsm ≠ .tx →
    (∃ u, runEdges 2 s = .next u ∧ u.ctl = { t.ctl with fsm := .idle } ∧ u.dev = t.dev ∧ u.inputs = rest) ∧
    (observe 2 s).map (·.event) = [some p.evtData, none] ∧
    (observe 2 s).map (·.completion) = [none, some (statusCode t.ctl.cmplStatus, t.ctl.cmplCmd)] ∧
    (observe 2 s).map (·.txByte) = [none, none]

/-- An event whose packet has `n` bytes, with the sink ready and a chip that never replies: after `2 + n + T_REPLY` edges
the block is in IDLE with the event's state change kept, status ReplyTimeout, and exactly the packet on TX. -/
def Obligations.PacketEventWithSilentChipTimesOut : Prop :=
  ∀ (s t : State) (p : Pins) (ps rest : List Pins) (i : Instr), legalConfig s.cfg = true → s.ctl.fsm = .idle →
    s.inputs = p :: (ps ++ rest) → NoReset p → p.rxValid = false → p.evtValid = true → decodeEvent p.evtData = .ok i →
    exec i s = .next t → t.ctl.fsm = .tx →
    ps.length = t.framer.pktLen.toNat + s.cfg.tReply + 1 →
    (∀ q ∈ ps, NoReset q ∧ q.rxValid = false ∧ q.txReady = true) →
    ∃ u, runEdges (2 + t.framer.pktLen.toNat + s.cfg.tReply) s = .next u ∧ u.ctl.fsm = .idle ∧ u.dev = t.dev ∧
      u.ctl.cmplStatus = .replyTimeout ∧ u.ctl.cmplCmd = t.ctl.cmplCmd ∧
      (observe (2 + t.framer.pktLen.toNat + s.cfg.tReply) s).filterMap (·.txByte) =
        t.framer.pkt.toList.take t.framer.pktLen.toNat ∧
      (observe (2 + t.framer.pktLen.toNat + s.cfg.tReply) s).filterMap (·.completion) = [(6, t.ctl.cmplCmd)]

/-- A run that has ended, from IDLE and over edges without reset: the device state is that after its events, the TX
stream has carried exactly one packet for each event that called for one and is not recorded TransportUnavailable, in
event order, and the completion registers hold the last record (R144). -/
def Obligations.EndedRunCarriedItsPackets : Prop :=
  ∀ (s t : State) (events : List EventWord) (ps rest : List Pins), legalConfig s.cfg = true → s.ctl.fsm = .idle →
    s.inputs = ps ++ rest → (∀ p ∈ ps, NoReset p) → runEnded events ps.length s = true →
    runEdges ps.length s = .next t →
    (t.dev, (observe ps.length s).filterMap (·.txByte)) = runResult s.cfg s.dev (records (observe ps.length s)) ∧
    (∀ r, (records (observe ps.length s)).getLast? = some r → r.2 = some (t.outputs.cmplStatus, t.outputs.cmplCmd)) ∧
    (events = [] → t.outputs = s.outputs)

/-- The parser's transitions, state by state, at every edge and in every control state, and the signals of a frame that
ends (R104). -/
def Obligations.ParserTakesEveryValidByte : Prop :=
  ∀ (s t : State), Running s → step s = .next t →
    ((s.pins.rxValid = false ∨ s.rx.rxSt ≠ .sum) → s.frame = none) ∧
    (s.pins.rxValid = true → s.rx.rxSt = .sum →
      s.frame = some { ok := decide (s.pins.rxData = s.rx.rxSum), code := s.rx.rxCmd }) ∧
    (s.pins.rxValid = false → t.rx = s.rx) ∧
    (s.pins.rxValid = true →
      (s.rx.rxSt = .h0 → t.rx = if s.pins.rxData = 0x57 then { s.rx with rxSum := 0x57, rxSt := .h1 } else s.rx) ∧
      ((s.rx.rxSt = .h1 ∨ s.rx.rxSt = .h2) → s.pins.rxData = 0x57 → t.rx = { s.rx with rxSum := 0x57, rxSt := .h1 }) ∧
      (s.rx.rxSt = .h1 → s.pins.rxData = 0xAB → t.rx = { s.rx with rxSum := s.rx.rxSum + 0xAB, rxSt := .h2 }) ∧
      (s.rx.rxSt = .h1 → s.pins.rxData ≠ 0xAB → s.pins.rxData ≠ 0x57 → t.rx = { s.rx with rxSt := .h0 }) ∧
      (s.rx.rxSt = .h2 → s.pins.rxData = 0x00 → t.rx = { s.rx with rxSt := .cmd }) ∧
      (s.rx.rxSt = .h2 → s.pins.rxData ≠ 0x00 → s.pins.rxData ≠ 0x57 → t.rx = { s.rx with rxSt := .h0 }) ∧
      (s.rx.rxSt = .cmd →
        t.rx = { s.rx with rxCmd := s.pins.rxData, rxSum := s.rx.rxSum + s.pins.rxData, rxSt := .len }) ∧
      (s.rx.rxSt = .len →
        t.rx = { s.rx with rxLen := s.pins.rxData, rxSum := s.rx.rxSum + s.pins.rxData, rxCnt := 0
                           rxSt := if s.pins.rxData = 0 then .sum else .data }) ∧
      (s.rx.rxSt = .data →
        t.rx = { s.rx with rxSum := s.rx.rxSum + s.pins.rxData, rxCnt := s.rx.rxCnt + 1
                           rxSt := if s.rx.rxCnt + 1 = s.rx.rxLen then .sum else .data }) ∧
      (s.rx.rxSt = .sum → t.rx = { s.rx with rxSt := .h0 }))

/-- From any hunting state of the parser, whatever its registers hold, a header is recognised. -/
def Obligations.ParserResynchronisesOnAHeader : Prop :=
  ∀ p : RxRegs, p.rxSt ∈ [RxState.h0, .h1, .h2] →
    (rxSteps [0x57, 0xAB, 0x00] p).rxSt = .cmd ∧ (rxSteps [0x57, 0xAB, 0x00] p).rxSum = 0x02

/-- The parser, one byte an edge, reads from every frame what the list decoder reads: after all of a frame but its
checksum byte its registers hold the code, the length and the running sum, no frame has ended before, the checksum byte
ends it and the parser hunts again; the registers give a reply instruction exactly where the decoder answers it, with no
byte left over. That a reply instruction holds its payload by its sum is the model's reading (log entry 7). -/
def Obligations.ParserReadsEveryReplyFrame : Prop :=
  ∀ (p : RxRegs) (code len cks : Byte) (payload : List Byte), p.rxSt = .h0 → payload.length = len.toNat →
    ∃ q, rxSteps ([0x57, 0xAB, 0x00, code, len] ++ payload) p = q ∧ q.rxSt = .sum ∧ q.rxCmd = code ∧ q.rxLen = len ∧
      q.rxSum = additive ([0x57, 0xAB, 0x00, code, len] ++ payload) ∧
      (∀ (front back : List Byte) (b : Byte), [0x57, 0xAB, 0x00, code, len] ++ payload = front ++ b :: back →
        rxFrame b (rxSteps front p) = none) ∧
      rxFrame cks q = some { ok := cks == additive ([0x57, 0xAB, 0x00, code, len] ++ payload), code := code } ∧
      (rxStep cks q).rxSt = .h0 ∧
      ∀ i, decodeReply ([0x57, 0xAB, 0x00, code, len] ++ payload ++ [cks]) = .ok (i, []) ↔
        replyOfCode q.rxCmd q.rxLen (q.rxSum - additive [0x57, 0xAB, 0x00, q.rxCmd, q.rxLen]) cks = some i

/-- The invariant holds right after reset. -/
def Obligations.InvariantHoldsAtReset : Prop :=
  State.reset.Inv ∧ ∀ (c : Config) (inputs : List Pins) (n : Nat), (State.resetWith c inputs n).Inv

/-- Every step keeps the invariant: distinct slots, legal mouse registers, a guard flag of 0 without the guard, a
snapshot of the device state in the buffer while sending, a timer in range while waiting, parser registers in step. -/
def Obligations.EveryStepKeepsTheInvariant : Prop :=
  ∀ s t : State, s.Inv → step s = .next t → t.Inv

/-- In every state reachable from reset, whatever the configuration and the inputs, no usage is held by two slots
(R18). -/
def Obligations.NoUsageInTwoSlots : Prop :=
  ∀ (c : Config) (inputs : List Pins) (k n : Nat) (t : State), runEdges n (State.resetWith c inputs k) = .next t →
    ∀ i j : Fin 6, i ≠ j → t.dev.kbd.kbdSlot[i] ≠ 0x00 → t.dev.kbd.kbdSlot[i] ≠ t.dev.kbd.kbdSlot[j]

/-- No step changes the configuration (R29). -/
def Obligations.ConfigurationNeverChanges : Prop :=
  ∀ s t : State, step s = .next t → t.cfg = s.cfg

/-- Code 5 is kept for InvalidModifier, and no step produces it (R118). -/
def Obligations.InvalidModifierIsNeverProduced : Prop :=
  statusCode .invalidModifier = 5 ∧
  ∀ s t : State, step s = .next t → t.ctl.cmplStatus = .invalidModifier → s.ctl.cmplStatus = .invalidModifier

/-- The keyboard state, the mouse state and `oob` change only at an edge that takes an event or resets. -/
def Obligations.DeviceChangesOnlyByEventOrReset : Prop :=
  ∀ s t : State, step s = .next t → t.dev ≠ s.dev →
    s.pins.rst = true ∨ s.pins.teardown = true ∨
    (s.ctl.fsm = .idle ∧ s.pins.evtValid = true ∧ ∃ i, decodeEvent s.pins.evtData = .ok i)

/-- A closed link at the edge an event is taken: the state change is the same as with an open one, and where a packet was
called for nothing is loaded and the event completes TransportUnavailable with the packet's command byte (R99). -/
def Obligations.ClosedLinkKeepsTheStateChange : Prop :=
  ∀ (s : State) (p : Pins) (i : Instr), isEvent i = true →
    ∃ t u, exec i (s.withPins { p with linkUp := true }) = .next t ∧
      exec i (s.withPins { p with linkUp := false }) = .next u ∧ u.dev = t.dev ∧ u.framer = s.framer ∧
      (t.ctl.fsm = .tx →
        u = completedAs t.dev .transportUnavailable t.ctl.cmplCmd (s.withPins { p with linkUp := false })) ∧
      (t.ctl.fsm ≠ .tx → u.ctl = t.ctl)

/-- The frame of the eight events: what no event changes, and what a keyboard event, a mouse event and RESET each leave
alone. -/
def Obligations.EventsLeaveTheRestUnchanged : Prop :=
  ∀ (s t : State) (i : Instr), isEvent i = true → exec i s = .next t →
    t.cfg = s.cfg ∧ t.rx = s.rx ∧ t.inputs = s.inputs ∧ t.edge = s.edge ∧ t.ctl.pendCmd = s.ctl.pendCmd ∧
    t.ctl.pendTimer = s.ctl.pendTimer ∧
    (t.ctl.fsm = .tx ∨ t.ctl.fsm = .done) ∧ (t.ctl.fsm = .done → t.framer = s.framer) ∧
    (t.ctl.fsm = .tx → t.framer.txIdx = 0 ∧
      t.framer.pkt.toList.drop t.framer.pktLen.toNat = s.framer.pkt.toList.drop t.framer.pktLen.toNat) ∧
    (isMouse i = true → t.dev.kbd = s.dev.kbd) ∧
    (isMouse i = false → t.dev.oob = s.dev.oob) ∧
    (isMouse i = false → i ≠ .reset → t.dev.mouse = s.dev.mouse) ∧
    (∀ x y out, i = .movea x y out → t.dev.mouse.msBtn = s.dev.mouse.msBtn) ∧
    (∀ dx dy out, i = .mover dx dy out → t.dev.mouse = s.dev.mouse) ∧
    (∀ tilt, i = .scroll tilt → t.dev = s.dev) ∧
    (∀ b, (i = .btndown b ∨ i = .btnup b) →
      t.dev.mouse.msX = s.dev.mouse.msX ∧ t.dev.mouse.msY = s.dev.mouse.msY ∧ t.dev.oob = s.dev.oob)

/-- The frame of the packets and the reply frames: the device state, the configuration and the parser's registers never
change, and a reply frame changes neither the packet buffer nor the pending command. What a packet instruction means is the
model's reading, and in WAIT and DONE, where no edge fetches one, its own (log entry 4). -/
def Obligations.PacketsAndRepliesLeaveTheDeviceUnchanged : Prop :=
  ∀ (s t : State) (i : Instr), isEvent i = false → exec i s = .next t →
    t.dev = s.dev ∧ t.cfg = s.cfg ∧ t.rx = s.rx ∧ t.inputs = s.inputs ∧ t.edge = s.edge ∧
    (isPacket i = false → t.framer = s.framer ∧ t.ctl.pendCmd = s.ctl.pendCmd ∧ t.ctl.cmplCmd = s.ctl.cmplCmd) ∧
    (isPacket i = true → s.ctl.fsm = .tx → t.framer.pkt = s.framer.pkt ∧ t.ctl.cmplStatus = s.ctl.cmplStatus ∧
      t.ctl.cmplCmd = s.ctl.cmplCmd)

/-- Outside IDLE the event port has no effect: no event is taken while a packet is sent, awaited or reported. -/
def Obligations.EventPortIgnoredOutsideIdle : Prop :=
  ∀ (s : State) (p : Pins) (v : Bool) (e : EventWord), s.ctl.fsm ≠ .idle →
    step (s.withPins { p with evtValid := v, evtData := e }) = step (s.withPins p) ∧
    (s.withPins p).transfers.event = none

/-- Checksum verification: what passes, that every built packet passes, that one changed byte never passes, and that
bodies of the same sum, a reordering among them, pass alike (R92). -/
def Obligations.ChecksumDetectsOneChangedByte : Prop :=
  (∀ (body : List Byte) (k : Byte), passesChecksum (body ++ [k]) = true ↔ k = additive body) ∧
  (∀ (d : Device) (p : PacketCall), passesChecksum (buildPacket d p) = true) ∧
  (∀ (body : List Byte) (k b : Byte) (i : Nat) (h : i < body.length), passesChecksum (body ++ [k]) = true →
    body[i] ≠ b → passesChecksum (body.set i b ++ [k]) = false) ∧
  (∀ (body other : List Byte) (k : Byte), (additive body = additive other ∨ body.Perm other) →
    passesChecksum (body ++ [k]) = passesChecksum (other ++ [k]))

/-- The outputs are functions of the registers, and the transfers are those of the handshakes (R14). -/
def Obligations.OutputsAreFunctionsOfRegisters : Prop :=
  ∀ s : State,
    (s.outputs.evtReady = true ↔ s.ctl.fsm = .idle) ∧ (s.outputs.cmplValid = true ↔ s.ctl.fsm = .done) ∧
    s.outputs.cmplStatus = statusCode s.ctl.cmplStatus ∧ s.outputs.cmplCmd = s.ctl.cmplCmd ∧
    (s.outputs.txValid = true ↔ s.ctl.fsm = .tx) ∧
    (∀ k : Fin 14, s.ctl.fsm = .tx → s.framer.txIdx.toNat = k → s.outputs.txData = s.framer.pkt[k]) ∧
    (s.ctl.fsm ≠ .tx → s.outputs.txData = 0x00) ∧
    (s.pins.rst = false → s.pins.teardown = false →
      (∀ e, s.transfers.event = some e ↔ s.pins.evtValid = true ∧ s.outputs.evtReady = true ∧ e = s.pins.evtData) ∧
      (∀ b, s.transfers.txByte = some b ↔ s.outputs.txValid = true ∧ s.pins.txReady = true ∧ b = s.outputs.txData) ∧
      (∀ b, s.transfers.rxByte = some b ↔ s.pins.rxValid = true ∧ b = s.pins.rxData))

/-- The pseudo-instructions expand as the table says, for every operand of a byte (R65). -/
def Obligations.PseudoInstructionsExpand : Prop :=
  assemble .relall [] = .ok [.btnup 0] ∧ assemble .pushmouse [] = .ok [.mover 0 0 false] ∧
  ∀ k : Byte,
    assemble .tap [.num k.toNat] = .ok [.keydown k false, .keyup k false] ∧
    assemble .tap [.num k.toNat, .right] = .ok [.keydown k true, .keyup k true] ∧
    assemble .click [.num k.toNat] = .ok [.btndown k, .btnup k]

/-- The default maps are general knowledge that the spec marks as such (log entry 1): they are legal, the flag does not
change a usage, no usage is 0, and no keycode is in both. -/
def Obligations.DefaultMapsAreLegalAndDisjoint : Prop :=
  legalConfig standardConfig = true ∧
  ∀ kc : Byte, keymap standardConfig kc true = keymap standardConfig kc false ∧
    keymap standardConfig kc false ≠ some 0x00 ∧
    (modmap standardConfig kc = none ∨ keymap standardConfig kc false = none)
end

