-- ==== Sys2Proof/Laws/State.lean ====
section
/-! SUPPORT. One lemma per field per named update of the state, each true by `rfl`. -/

namespace Sys2Proof.Machine

@[simp] theorem complete_cfg (st : Status) (cmd : Byte) (s : State) : (complete st cmd s).cfg = s.cfg := rfl
@[simp] theorem complete_dev (st : Status) (cmd : Byte) (s : State) : (complete st cmd s).dev = s.dev := rfl
@[simp] theorem complete_framer (st : Status) (cmd : Byte) (s : State) : (complete st cmd s).framer = s.framer := rfl
@[simp] theorem complete_rx (st : Status) (cmd : Byte) (s : State) : (complete st cmd s).rx = s.rx := rfl
@[simp] theorem complete_inputs (st : Status) (cmd : Byte) (s : State) : (complete st cmd s).inputs = s.inputs := rfl
@[simp] theorem complete_edge (st : Status) (cmd : Byte) (s : State) : (complete st cmd s).edge = s.edge := rfl
@[simp] theorem complete_fsm (st : Status) (cmd : Byte) (s : State) : (complete st cmd s).ctl.fsm = .done := rfl
@[simp] theorem complete_pendCmd (st : Status) (cmd : Byte) (s : State) : (complete st cmd s).ctl.pendCmd = s.ctl.pendCmd := rfl
@[simp] theorem complete_pendTimer (st : Status) (cmd : Byte) (s : State) : (complete st cmd s).ctl.pendTimer = s.ctl.pendTimer := rfl
@[simp] theorem complete_cmplStatus (st : Status) (cmd : Byte) (s : State) : (complete st cmd s).ctl.cmplStatus = st := rfl
@[simp] theorem complete_cmplCmd (st : Status) (cmd : Byte) (s : State) : (complete st cmd s).ctl.cmplCmd = cmd := rfl
@[simp] theorem resolve_cfg (st : Status) (s : State) : (resolve st s).cfg = s.cfg := rfl
@[simp] theorem resolve_dev (st : Status) (s : State) : (resolve st s).dev = s.dev := rfl
@[simp] theorem resolve_framer (st : Status) (s : State) : (resolve st s).framer = s.framer := rfl
@[simp] theorem resolve_rx (st : Status) (s : State) : (resolve st s).rx = s.rx := rfl
@[simp] theorem resolve_inputs (st : Status) (s : State) : (resolve st s).inputs = s.inputs := rfl
@[simp] theorem resolve_edge (st : Status) (s : State) : (resolve st s).edge = s.edge := rfl
@[simp] theorem resolve_fsm (st : Status) (s : State) : (resolve st s).ctl.fsm = .done := rfl
@[simp] theorem resolve_pendCmd (st : Status) (s : State) : (resolve st s).ctl.pendCmd = s.ctl.pendCmd := rfl
@[simp] theorem resolve_pendTimer (st : Status) (s : State) : (resolve st s).ctl.pendTimer = s.ctl.pendTimer := rfl
@[simp] theorem resolve_cmplStatus (st : Status) (s : State) : (resolve st s).ctl.cmplStatus = st := rfl
@[simp] theorem resolve_cmplCmd (st : Status) (s : State) : (resolve st s).ctl.cmplCmd = s.ctl.cmplCmd := rfl
@[simp] theorem endEdge_cfg (s t : State) : (endEdge s t).cfg = t.cfg := rfl
@[simp] theorem endEdge_dev (s t : State) : (endEdge s t).dev = t.dev := rfl
@[simp] theorem endEdge_framer (s t : State) : (endEdge s t).framer = t.framer := rfl
@[simp] theorem endEdge_ctl (s t : State) : (endEdge s t).ctl = t.ctl := rfl
@[simp] theorem endEdge_rx (s t : State) : (endEdge s t).rx = s.rxNext := rfl
@[simp] theorem endEdge_inputs (s t : State) : (endEdge s t).inputs = s.inputs.tail := rfl
@[simp] theorem endEdge_edge (s t : State) : (endEdge s t).edge = s.edge + 1 := rfl
@[simp] theorem withPins_cfg (p : Pins) (s : State) : (s.withPins p).cfg = s.cfg := rfl
@[simp] theorem withPins_dev (p : Pins) (s : State) : (s.withPins p).dev = s.dev := rfl
@[simp] theorem withPins_framer (p : Pins) (s : State) : (s.withPins p).framer = s.framer := rfl
@[simp] theorem withPins_ctl (p : Pins) (s : State) : (s.withPins p).ctl = s.ctl := rfl
@[simp] theorem withPins_rx (p : Pins) (s : State) : (s.withPins p).rx = s.rx := rfl
@[simp] theorem withPins_inputs (p : Pins) (s : State) : (s.withPins p).inputs = p :: s.inputs.tail := rfl
@[simp] theorem withPins_edge (p : Pins) (s : State) : (s.withPins p).edge = s.edge := rfl
@[simp] theorem resetWith_cfg (c : Config) (ins : List Pins) (n : Nat) : (State.resetWith c ins n).cfg = c := rfl
@[simp] theorem resetWith_inputs (c : Config) (ins : List Pins) (n : Nat) : (State.resetWith c ins n).inputs = ins := rfl
@[simp] theorem resetWith_edge (c : Config) (ins : List Pins) (n : Nat) : (State.resetWith c ins n).edge = n := rfl
@[simp] theorem resetWith_kbdMod (c : Config) (ins : List Pins) (n : Nat) : (State.resetWith c ins n).dev.kbd.kbdMod = 0x00 := rfl
@[simp] theorem resetWith_kbdSlot (c : Config) (ins : List Pins) (n : Nat) : (State.resetWith c ins n).dev.kbd.kbdSlot = Vector.replicate 6 0x00 := rfl
@[simp] theorem resetWith_msBtn (c : Config) (ins : List Pins) (n : Nat) : (State.resetWith c ins n).dev.mouse.msBtn = 0x00 := rfl
@[simp] theorem resetWith_msX (c : Config) (ins : List Pins) (n : Nat) : (State.resetWith c ins n).dev.mouse.msX = 0 := rfl
@[simp] theorem resetWith_msY (c : Config) (ins : List Pins) (n : Nat) : (State.resetWith c ins n).dev.mouse.msY = 0 := rfl
@[simp] theorem resetWith_oob (c : Config) (ins : List Pins) (n : Nat) : (State.resetWith c ins n).dev.oob = false := rfl
@[simp] theorem resetWith_pkt (c : Config) (ins : List Pins) (n : Nat) : (State.resetWith c ins n).framer.pkt = Vector.replicate 14 0 := rfl
@[simp] theorem resetWith_pktLen (c : Config) (ins : List Pins) (n : Nat) : (State.resetWith c ins n).framer.pktLen = 0 := rfl
@[simp] theorem resetWith_txIdx (c : Config) (ins : List Pins) (n : Nat) : (State.resetWith c ins n).framer.txIdx = 0 := rfl
@[simp] theorem resetWith_fsm (c : Config) (ins : List Pins) (n : Nat) : (State.resetWith c ins n).ctl.fsm = .idle := rfl
@[simp] theorem resetWith_pendCmd (c : Config) (ins : List Pins) (n : Nat) : (State.resetWith c ins n).ctl.pendCmd = 0x00 := rfl
@[simp] theorem resetWith_pendTimer (c : Config) (ins : List Pins) (n : Nat) : (State.resetWith c ins n).ctl.pendTimer = 0 := rfl
@[simp] theorem resetWith_cmplStatus (c : Config) (ins : List Pins) (n : Nat) : (State.resetWith c ins n).ctl.cmplStatus = .ok := rfl
@[simp] theorem resetWith_cmplCmd (c : Config) (ins : List Pins) (n : Nat) : (State.resetWith c ins n).ctl.cmplCmd = 0x00 := rfl
@[simp] theorem resetWith_rxSt (c : Config) (ins : List Pins) (n : Nat) : (State.resetWith c ins n).rx.rxSt = .h0 := rfl
@[simp] theorem resetWith_rxCmd (c : Config) (ins : List Pins) (n : Nat) : (State.resetWith c ins n).rx.rxCmd = 0 := rfl
@[simp] theorem resetWith_rxLen (c : Config) (ins : List Pins) (n : Nat) : (State.resetWith c ins n).rx.rxLen = 0 := rfl
@[simp] theorem resetWith_rxCnt (c : Config) (ins : List Pins) (n : Nat) : (State.resetWith c ins n).rx.rxCnt = 0 := rfl
@[simp] theorem resetWith_rxSum (c : Config) (ins : List Pins) (n : Nat) : (State.resetWith c ins n).rx.rxSum = 0 := rfl
@[simp] theorem resetEdge_cfg (s : State) : (resetEdge s).cfg = s.cfg := rfl
@[simp] theorem resetEdge_inputs (s : State) : (resetEdge s).inputs = s.inputs.tail := rfl
@[simp] theorem resetEdge_edge (s : State) : (resetEdge s).edge = s.edge + 1 := rfl
@[simp] theorem loadPacket_pktLen (bytes : List Byte) (f : Framer) : (loadPacket bytes f).pktLen = BitVec.ofNat 4 bytes.length := rfl
@[simp] theorem loadPacket_txIdx (bytes : List Byte) (f : Framer) : (loadPacket bytes f).txIdx = 0 := rfl
@[simp] theorem withSlot_kbdMod (k : Keyboard) (i : Fin 6) (v : Byte) : (k.withSlot i v).kbdMod = k.kbdMod := rfl
@[simp] theorem withSlot_kbdSlot (k : Keyboard) (i : Fin 6) (v : Byte) : (k.withSlot i v).kbdSlot = setSlot k.kbdSlot i v := rfl

end Sys2Proof.Machine
end

