-- ==== Sys2Proof/Laws/Ops.lean ====
section
/-! SUPPORT. One lemma per shared operation that says once everything it can do. -/

namespace Sys2Proof.Machine

/-- The pins of an edge with a scripted input are that input. -/
theorem pins_cons (s : State) (p : Pins) (ps : List Pins) (h : s.inputs = p :: ps) : s.pins = p := by
  simp [State.pins, h]

@[simp] theorem withPins_pins (p : Pins) (s : State) : (s.withPins p).pins = p := rfl

/-- The pins depend on the script and the edge count alone. -/
theorem pins_congr {s t : State} (hi : t.inputs = s.inputs) (he : t.edge = s.edge) : t.pins = s.pins := by
  simp [State.pins, hi, he]

/-- A table is legal exactly when no keycode yields the usage `0x00` (R5). -/
theorem tableLegal_iff (rows : List KeyRange) : tableLegal rows = true ↔ ∀ kc, usageIn rows kc ≠ some 0x00 := by
  have hrow : ∀ k kc, rangeLegal k = true → rangeContains k kc = true → rangeUsage k kc ≠ 0x00 := by
    intro k kc hk hc h
    simp only [rangeLegal, Bool.and_eq_true, bne_iff_ne, decide_eq_true_eq, ne_eq, ← BitVec.toNat_inj] at hk
    simp only [rangeContains, Bool.and_eq_true, decide_eq_true_eq] at hc
    rw [← BitVec.toNat_inj] at h
    simp only [rangeUsage, BitVec.toNat_add, BitVec.toNat_sub, BitVec.ofNat_eq_ofNat, BitVec.toNat_ofNat] at h hk
    have := k.first.isLt
    have := k.last.isLt
    have := kc.isLt
    omega
  constructor
  · intro h kc hkc
    simp only [tableLegal, Bool.or_eq_true, List.all_eq_true] at h
    rcases h with h | h
    · simp only [usageIn, Option.map_eq_some_iff] at hkc
      obtain ⟨k, hk, hu⟩ := hkc
      exact hrow k kc (h k (List.mem_of_find?_eq_some hk)) (List.find?_some (p := fun k => rangeContains k kc) hk) hu
    · have := h kc.toNat (List.mem_range.2 kc.isLt)
      simp [hkc] at this
  · intro h
    simp only [tableLegal, Bool.or_eq_true, List.all_eq_true]
    exact .inr fun n _ => by simpa using h (BitVec.ofNat 8 n)

/-- The checksum is the sum of the bytes modulo 256 (R91). -/
theorem checksum_eq (bs : List Byte) : checksum bs = BitVec.ofNat 8 (bs.map BitVec.toNat).sum := by
  have h : ∀ (bs : List Byte) (a : Byte), bs.foldl (· + ·) a = a + BitVec.ofNat 8 (bs.map BitVec.toNat).sum := by
    intro bs
    induction bs with
    | nil => intro a; simp
    | cons b bs ih =>
      intro a
      simp only [List.foldl_cons, List.map_cons, List.sum_cons, ih, BitVec.ofNat_add, BitVec.ofNat_toNat,
        BitVec.setWidth_eq, BitVec.add_assoc]
  simpa [checksum] using h bs 0

/-- The checksum of two byte sequences one after the other. -/
theorem checksum_append (as bs : List Byte) : checksum (as ++ bs) = checksum as + checksum bs := by
  simp [checksum_eq, BitVec.ofNat_add]

/-- Every sequence closed by its checksum passes verification (R92). -/
theorem passesChecksum_withChecksum (body : List Byte) : passesChecksum (withChecksum body) = true := by
  simp [passesChecksum, withChecksum]

/-- Loading a packet writes its bytes at the front of the buffer and keeps the others (R100, R22). -/
theorem loadPacket_pkt (bytes : List Byte) (f : Framer) (h : bytes.length ≤ 14) :
    (loadPacket bytes f).pkt.toList = bytes ++ f.pkt.toList.drop bytes.length := by
  apply List.ext_getElem
  · simp [h]
  · intro i h1 h2
    simp only [loadPacket, Vector.toList_ofFn, List.getElem_ofFn]
    by_cases hb : i < bytes.length
    · simp [hb, List.getD_eq_getElem?_getD]
    · simp [List.getElem_append, hb, List.getD_eq_getElem?_getD, show bytes.length + (i - bytes.length) = i by omega]

/-- Everything that calling for a packet can do (R99, R100, R107). -/
theorem sendPacket_cases (cmd : Byte) (bytes : List Byte) (s : State) :
    (s.pins.linkUp = true ∧ sendPacket cmd bytes s =
        { s with framer := loadPacket bytes s.framer,
                 ctl := { s.ctl with cmplStatus := .ok, cmplCmd := cmd, fsm := .tx } }) ∨
    (s.pins.linkUp = false ∧ sendPacket cmd bytes s = complete .transportUnavailable cmd s) := by
  unfold sendPacket
  cases h : s.pins.linkUp <;> simp

/-- What calling for a packet never changes. -/
theorem sendPacket_frame (cmd : Byte) (bytes : List Byte) (s : State) :
    (sendPacket cmd bytes s).cfg = s.cfg ∧ (sendPacket cmd bytes s).dev = s.dev ∧
    (sendPacket cmd bytes s).rx = s.rx ∧ (sendPacket cmd bytes s).inputs = s.inputs ∧
    (sendPacket cmd bytes s).edge = s.edge ∧ (sendPacket cmd bytes s).ctl.pendCmd = s.ctl.pendCmd ∧
    (sendPacket cmd bytes s).ctl.pendTimer = s.ctl.pendTimer ∧ (sendPacket cmd bytes s).ctl.cmplCmd = cmd := by
  rcases sendPacket_cases cmd bytes s with ⟨_, h⟩ | ⟨_, h⟩ <;> simp [h]

/-- The device state that an event's result leaves. -/
def EventResult.device (d : Device) : EventResult → Device
  | .error _ => d
  | .noSend d' => d'
  | .suppress d' => d'
  | .send d' _ => d'

/-- The packet that an event's result calls for, if it calls for one. -/
def EventResult.packet : EventResult → List Byte
  | .error _ => []
  | .noSend _ => []
  | .suppress _ => []
  | .send d p => buildPacket d p

/-- Every packet has 6, 11, 13 or 14 bytes (R59). -/
theorem buildPacket_length (d : Device) (p : PacketCall) :
    (buildPacket d p).length = match p with | .kbd => 14 | .abs => 13 | .rel _ _ _ => 11 | .rst => 6 := by
  cases p <;> simp [buildPacket, withChecksum, kbdBody, absBody, relBody, rstBody, frameBody, hdr, le16]

/-- A loaded packet lies in the buffer's first `pkt_len` bytes (R100). -/
theorem loadPacket_take (d : Device) (p : PacketCall) (f : Framer) :
    (loadPacket (buildPacket d p) f).pkt.toList.take (loadPacket (buildPacket d p) f).pktLen.toNat = buildPacket d p := by
  have h : (buildPacket d p).length ≤ 14 := by rw [buildPacket_length]; cases p <;> simp
  rw [loadPacket_pkt _ _ h, show (loadPacket (buildPacket d p) f).pktLen = BitVec.ofNat 4 (buildPacket d p).length from rfl,
    BitVec.toNat_ofNat, Nat.mod_eq_of_lt (by omega), List.take_left']
  rfl

/-- What taking an event never changes, and the device state it leaves (R107). -/
theorem commit_frame (s : State) (r : EventResult) :
    (commit s r).cfg = s.cfg ∧ (commit s r).dev = r.device s.dev ∧ (commit s r).rx = s.rx ∧
    (commit s r).inputs = s.inputs ∧ (commit s r).edge = s.edge ∧
    (commit s r).ctl.pendCmd = s.ctl.pendCmd ∧ (commit s r).ctl.pendTimer = s.ctl.pendTimer := by
  cases r with
  | error st => simp [commit, EventResult.device]
  | noSend d => simp [commit, EventResult.device]
  | suppress d => simp [commit, EventResult.device]
  | send d p =>
    obtain ⟨h1, h2, h3, h4, h5, h6, h7, -⟩ := sendPacket_frame p.cmd (buildPacket d p) { s with dev := d }
    exact ⟨h1, h2, h3, h4, h5, h6, h7⟩

/-- Everything one edge in TX can do (R101). -/
theorem txEdge_cases (s : State) :
    (s.pins.txReady = false ∧ txEdge s = s) ∨
    (s.pins.txReady = true ∧ s.framer.txIdx = s.framer.pktLen - 1 ∧ txEdge s =
        { s with ctl := { s.ctl with pendCmd := pktByte s.framer 3, pendTimer := s.cfg.tReply, fsm := .wait } }) ∨
    (s.pins.txReady = true ∧ s.framer.txIdx ≠ s.framer.pktLen - 1 ∧ txEdge s =
        { s with framer := { s.framer with txIdx := s.framer.txIdx + 1 } }) := by
  unfold txEdge
  cases h : s.pins.txReady
  · exact .inl ⟨rfl, rfl⟩
  · by_cases h2 : s.framer.txIdx = s.framer.pktLen - 1
    · exact .inr (.inl ⟨rfl, h2, by rw [if_pos rfl, if_pos h2]⟩)
    · exact .inr (.inr ⟨rfl, h2, by rw [if_pos rfl, if_neg h2]⟩)

/-- What one edge in TX never changes. -/
theorem txEdge_frame (s : State) :
    (txEdge s).cfg = s.cfg ∧ (txEdge s).dev = s.dev ∧ (txEdge s).rx = s.rx ∧ (txEdge s).inputs = s.inputs ∧
    (txEdge s).edge = s.edge ∧ (txEdge s).framer.pkt = s.framer.pkt ∧ (txEdge s).framer.pktLen = s.framer.pktLen ∧
    (txEdge s).ctl.cmplStatus = s.ctl.cmplStatus ∧ (txEdge s).ctl.cmplCmd = s.ctl.cmplCmd := by
  rcases txEdge_cases s with ⟨_, h⟩ | ⟨_, _, h⟩ | ⟨_, _, h⟩ <;> simp [h]

/-- Everything one edge in WAIT can do (R109, R110). -/
theorem waitEdge_cases (f : Option Frame) (s : State) :
    (∃ st, f.bind (judge s.ctl.pendCmd) = some st ∧ waitEdge f s = resolve st s) ∨
    (f.bind (judge s.ctl.pendCmd) = none ∧ s.ctl.pendTimer = 1 ∧ waitEdge f s = resolve .replyTimeout s) ∨
    (f.bind (judge s.ctl.pendCmd) = none ∧ s.ctl.pendTimer ≠ 1 ∧ waitEdge f s =
        { s with ctl := { s.ctl with pendTimer := timerDown s.cfg s.ctl.pendTimer } }) := by
  unfold waitEdge countDown
  cases h : f.bind (judge s.ctl.pendCmd) with
  | some st => exact .inl ⟨st, rfl, rfl⟩
  | none => by_cases h2 : s.ctl.pendTimer = 1 <;> simp [h2]

/-- What one edge in WAIT never changes. -/
theorem waitEdge_frame (f : Option Frame) (s : State) :
    (waitEdge f s).cfg = s.cfg ∧ (waitEdge f s).dev = s.dev ∧ (waitEdge f s).framer = s.framer ∧
    (waitEdge f s).rx = s.rx ∧ (waitEdge f s).inputs = s.inputs ∧ (waitEdge f s).edge = s.edge ∧
    (waitEdge f s).ctl.pendCmd = s.ctl.pendCmd ∧ (waitEdge f s).ctl.cmplCmd = s.ctl.cmplCmd := by
  rcases waitEdge_cases f s with ⟨st, _, h⟩ | ⟨_, _, h⟩ | ⟨_, _, h⟩ <;> simp [h]

/-- A found slot holds the value, and no lower slot does (R71). -/
theorem findSlot_some {slots : Slots} {v : Byte} {i : Fin 6} (h : findSlot slots v = some i) :
    slots[i] = v ∧ ∀ j < i, slots[j] ≠ v := by
  unfold findSlot at h
  rw [List.find?_eq_some_iff_append] at h
  obtain ⟨hv, as, bs, hs, hn⟩ := h
  refine ⟨by simpa using hv, fun j hj => ?_⟩
  have hp : (List.finRange 6).Pairwise (· < ·) := List.pairwise_lt_finRange 6
  have hm : j ∈ as := by
    have : j ∈ List.finRange 6 := List.mem_finRange j
    rw [hs] at this hp
    rcases List.mem_append.1 this with h | h
    · exact h
    · rcases List.mem_cons.1 h with h | h
      · omega
      · have := (List.pairwise_cons.1 (List.pairwise_append.1 hp).2.1).1 j h
        omega
  simpa using hn j hm

/-- No slot found means that no slot holds the value (R71). -/
theorem findSlot_none {slots : Slots} {v : Byte} (h : findSlot slots v = none) (i : Fin 6) : slots[i] ≠ v := by
  unfold findSlot at h
  rw [List.find?_eq_none] at h
  simpa using h i (List.mem_finRange i)

/-- A slot after a write (R18: the others stay where they are). -/
theorem getElem_setSlot (slots : Slots) (i j : Fin 6) (v : Byte) :
    (setSlot slots i v)[j] = if i = j then v else slots[j] := by
  simp [setSlot, Vector.getElem_set, Fin.ext_iff]

/-- A frame ends exactly when a byte is taken in SUM (R104). -/
theorem rxFrame_eq_some {b : Byte} {p : RxRegs} {f : Frame} (h : rxFrame b p = some f) :
    p.rxSt = .sum ∧ f = ⟨b == p.rxSum, p.rxCmd⟩ := by
  unfold rxFrame at h
  split at h <;> simp_all

/-- The parser over one sequence and then another. -/
theorem rxSteps_append (as bs : List Byte) (p : RxRegs) : rxSteps (as ++ bs) p = rxSteps bs (rxSteps as p) := by
  simp [rxSteps]

/-- What running a packet at an edge never changes. -/
theorem runPacket_frame (cmd : Byte) (bytes : List Byte) (s : State) :
    (runPacket cmd bytes s).cfg = s.cfg ∧ (runPacket cmd bytes s).dev = s.dev ∧ (runPacket cmd bytes s).rx = s.rx ∧
    (runPacket cmd bytes s).inputs = s.inputs ∧ (runPacket cmd bytes s).edge = s.edge := by
  obtain ⟨a1, a2, a3, a4, a5, -⟩ := txEdge_frame s
  obtain ⟨b1, b2, b3, b4, b5, -⟩ := sendPacket_frame cmd bytes s
  unfold runPacket
  cases s.ctl.fsm
  · exact ⟨b1, b2, b3, b4, b5⟩
  · exact ⟨a1, a2, a3, a4, a5⟩
  · exact ⟨b1, b2, b3, b4, b5⟩
  · exact ⟨b1, b2, b3, b4, b5⟩

/-- What a reply frame never changes (R106, R113). -/
theorem runReply_frame (f : Frame) (s : State) :
    (runReply f s).cfg = s.cfg ∧ (runReply f s).dev = s.dev ∧ (runReply f s).framer = s.framer ∧
    (runReply f s).rx = s.rx ∧ (runReply f s).inputs = s.inputs ∧ (runReply f s).edge = s.edge := by
  obtain ⟨a1, a2, a3, a4, a5, a6, -⟩ := waitEdge_frame (some f) s
  unfold runReply
  cases s.ctl.fsm
  · exact ⟨rfl, rfl, rfl, rfl, rfl, rfl⟩
  · exact ⟨rfl, rfl, rfl, rfl, rfl, rfl⟩
  · exact ⟨a1, a2, a3, a4, a5, a6⟩
  · exact ⟨rfl, rfl, rfl, rfl, rfl, rfl⟩

/-- Every meaning answers a next state, whatever the state. -/
theorem exec_next (i : Instr) (s : State) : ∃ t, exec i s = .next t := by
  cases i <;> exact ⟨_, rfl⟩

/-- Everything a step can do: refuse an illegal configuration, reset, or run an edge (R133). -/
theorem step_cases (s : State) :
    (legalConfig s.cfg = false ∧ step s = .refused .illegalConfiguration) ∨
    (legalConfig s.cfg = true ∧ s.resetting = true ∧ step s = .next (resetEdge s)) ∨
    (legalConfig s.cfg = true ∧ s.resetting = false ∧ ∃ i t, s.fetch = some i ∧ exec i s = .next t ∧
        step s = .next (endEdge s t)) ∨
    (legalConfig s.cfg = true ∧ s.resetting = false ∧ s.fetch = none ∧
        step s = .next (endEdge s (controlEdge s))) := by
  unfold step runEdge
  cases hl : legalConfig s.cfg
  · simp
  · cases hr : s.resetting
    · cases hf : s.fetch with
      | none => simp
      | some i =>
        obtain ⟨t, ht⟩ := exec_next i s
        refine .inr (.inr (.inl ⟨rfl, rfl, i, t, rfl, ht, ?_⟩))
        simp [ht]
    · simp

end Sys2Proof.Machine
end

