-- ==== Sys2Proof/Laws/Events.lean ====
section
/-! SUPPORT. Every case of each event operation, and the bits of a mask. -/

namespace Sys2Proof.Machine

/-- The bits of a one-bit mask. -/
theorem getLsbD_one_shiftLeft (n k : Nat) (hk : k < 8) : ((1#8) <<< n).getLsbD k = decide (k = n) := by
  by_cases h : k < n
  · simp [h]; omega
  · simp [h, hk]; omega

/-- A modifier bit is one of the eight (R118). -/
theorem modifier_bit_lt (m : Modifier) (r : Bool) : modifierIndex m + 4 * r.toNat < 8 := by
  cases m <;> cases r <;> decide

/-- A slot that holds the value, the first of its kind, is found. -/
theorem findSlot_eq_some {slots : Slots} {v : Byte} {i : Fin 6} (h : slots[i] = v) (hl : ∀ j < i, slots[j] ≠ v) :
    findSlot slots v = some i := by
  cases hf : findSlot slots v with
  | none => exact absurd h (findSlot_none hf i)
  | some j =>
    obtain ⟨h1, h2⟩ := findSlot_some hf
    rcases lt_trichotomy i j with h3 | h3 | h3
    · exact absurd h (h2 i h3)
    · rw [h3]
    · exact absurd h1 (hl j h3)

/-- No slot that holds the value: none is found. -/
theorem findSlot_eq_none {slots : Slots} {v : Byte} (h : ∀ i : Fin 6, slots[i] ≠ v) : findSlot slots v = none := by
  cases hf : findSlot slots v with
  | some j => exact absurd (findSlot_some hf).1 (h j)
  | none => rfl

/-- Writing a slot and then its old value gives the slots back. -/
theorem setSlot_setSlot_self (slots : Slots) (i : Fin 6) (v : Byte) :
    setSlot (setSlot slots i v) i slots[i] = slots := by
  apply Vector.ext
  intro k hk
  have h1 := getElem_setSlot (setSlot slots i v) i ⟨k, hk⟩ slots[i]
  have h2 := getElem_setSlot slots i ⟨k, hk⟩ v
  simp only [Fin.getElem_fin] at h1 h2 ⊢
  rw [h1, h2]
  split
  · rename_i e
    subst e
    rfl
  · rfl

/-- Everything KEYDOWN can answer (R69 to R71). -/
theorem keydown_cases (c : Config) (d : Device) (kc : Byte) (r : Bool) :
    (∃ m, modmap c kc = some m ∧ d.kbd.kbdMod ||| modifierMask m r = d.kbd.kbdMod ∧
      keydown c d kc r = .noSend d) ∨
    (∃ m, modmap c kc = some m ∧ d.kbd.kbdMod ||| modifierMask m r ≠ d.kbd.kbdMod ∧
      keydown c d kc r =
        .send { d with kbd := { d.kbd with kbdMod := d.kbd.kbdMod ||| modifierMask m r } } .kbd) ∨
    (modmap c kc = none ∧ keymap c kc r = none ∧ keydown c d kc r = .error .unsupportedKey) ∨
    (∃ u i, modmap c kc = none ∧ keymap c kc r = some u ∧ findSlot d.kbd.kbdSlot u = some i ∧
      keydown c d kc r = .noSend d) ∨
    (∃ u i, modmap c kc = none ∧ keymap c kc r = some u ∧ findSlot d.kbd.kbdSlot u = none ∧
      findSlot d.kbd.kbdSlot 0x00 = some i ∧
      keydown c d kc r = .send { d with kbd := d.kbd.withSlot i u } .kbd) ∨
    (∃ u, modmap c kc = none ∧ keymap c kc r = some u ∧ findSlot d.kbd.kbdSlot u = none ∧
      findSlot d.kbd.kbdSlot 0x00 = none ∧ keydown c d kc r = .error .keyboardSlotsExhausted) := by
  unfold keydown
  split
  · rename_i m hm
    by_cases h : d.kbd.kbdMod ||| modifierMask m r = d.kbd.kbdMod
    · exact .inl ⟨m, hm, h, if_pos h⟩
    · exact .inr (.inl ⟨m, hm, h, if_neg h⟩)
  · rename_i hm
    split
    · rename_i hk
      exact .inr (.inr (.inl ⟨hm, hk, rfl⟩))
    · rename_i u hk
      split
      · rename_i i hf
        exact .inr (.inr (.inr (.inl ⟨u, i, hm, hk, hf, rfl⟩)))
      · rename_i hf
        split
        · rename_i i h0
          exact .inr (.inr (.inr (.inr (.inl ⟨u, i, hm, hk, hf, h0, rfl⟩))))
        · rename_i h0
          exact .inr (.inr (.inr (.inr (.inr ⟨u, hm, hk, hf, h0, rfl⟩))))

/-- Everything KEYUP can answer (R72 to R74). -/
theorem keyup_cases (c : Config) (d : Device) (kc : Byte) (r : Bool) :
    (∃ m, modmap c kc = some m ∧ d.kbd.kbdMod &&& ~~~modifierMask m r = d.kbd.kbdMod ∧
      keyup c d kc r = .noSend d) ∨
    (∃ m, modmap c kc = some m ∧ d.kbd.kbdMod &&& ~~~modifierMask m r ≠ d.kbd.kbdMod ∧
      keyup c d kc r =
        .send { d with kbd := { d.kbd with kbdMod := d.kbd.kbdMod &&& ~~~modifierMask m r } } .kbd) ∨
    (modmap c kc = none ∧ keymap c kc r = none ∧ keyup c d kc r = .error .unsupportedKey) ∨
    (∃ u i, modmap c kc = none ∧ keymap c kc r = some u ∧ findSlot d.kbd.kbdSlot u = some i ∧
      keyup c d kc r = .send { d with kbd := d.kbd.withSlot i 0x00 } .kbd) ∨
    (∃ u, modmap c kc = none ∧ keymap c kc r = some u ∧ findSlot d.kbd.kbdSlot u = none ∧
      keyup c d kc r = .noSend d) := by
  unfold keyup
  split
  · rename_i m hm
    by_cases h : d.kbd.kbdMod &&& ~~~modifierMask m r = d.kbd.kbdMod
    · exact .inl ⟨m, hm, h, if_pos h⟩
    · exact .inr (.inl ⟨m, hm, h, if_neg h⟩)
  · rename_i hm
    split
    · rename_i hk
      exact .inr (.inr (.inl ⟨hm, hk, rfl⟩))
    · rename_i u hk
      split
      · rename_i i hf
        exact .inr (.inr (.inr (.inl ⟨u, i, hm, hk, hf, rfl⟩)))
      · rename_i hf
        exact .inr (.inr (.inr (.inr ⟨u, hm, hk, hf, rfl⟩)))

/-- Everything the guard of a move can answer (R78). -/
theorem guardMove_cases (c : Config) (d : Device) (out : Bool) :
    (c.oobGuard = true ∧ out = true ∧ guardMove c d out = .suppress { d with oob := true }) ∨
    (c.oobGuard = true ∧ out = false ∧ guardMove c d out = .proceed { d with oob := false }) ∨
    (c.oobGuard = false ∧ guardMove c d out = .proceed d) := by
  unfold guardMove
  cases c.oobGuard <;> cases out <;> simp

/-- Everything the guard of a button or scroll event can answer (R78). -/
theorem guardOther_cases (c : Config) (d : Device) :
    (c.oobGuard = true ∧ d.oob = true ∧ guardOther c d = .suppress d) ∨
    ((c.oobGuard = false ∨ d.oob = false) ∧ guardOther c d = .proceed d) := by
  unfold guardOther
  cases c.oobGuard <;> cases d.oob <;> simp

end Sys2Proof.Machine
end

