-- ==== Sys2Proof/Laws/PerInstr.lean ====
section
/-! SUPPORT. Statements about every instruction as syntax, made constructor by constructor. -/

namespace Sys2Proof.Laws.EncodedSize

open Machine

/-- How many bytes an encoding has: 5 for an event word's 40 bits (R47). -/
def bytesOf : Encoded → Nat
  | .event _ => 5
  | .packet bytes => bytes.length
  | .reply bytes => bytes.length

/-- The size the spec gives an instruction: an event word is 40 bits (R57), a packet `L + 6` bytes by command (R59), a
reply frame `L + 6` bytes by its length byte (R61). -/
def size : Instr → Nat
  | .keydown _ _ => 5
  | .keyup _ _ => 5
  | .movea _ _ _ => 5
  | .mover _ _ _ => 5
  | .btndown _ => 5
  | .btnup _ => 5
  | .scroll _ => 5
  | .reset => 5
  | .pktKbd _ _ _ _ => 14
  | .pktAbs _ _ _ _ _ _ => 13
  | .pktRel _ _ _ _ _ _ => 11
  | .pktRst _ => 6
  | .replyOk _ len _ _ => 6 + len.toNat
  | .replyErr _ len _ _ => 6 + len.toNat

/-- The encoding has the size the spec gives. -/
def Statement (i : Instr) : Prop := bytesOf (encode i) = size i

theorem replyPayload_length (len paySum : Byte) : (replyPayload len paySum).length = len.toNat := by
  unfold replyPayload
  split <;> simp_all

theorem keydown (kc : Byte) (r : Bool) : Statement (.keydown kc r) := rfl
theorem keyup (kc : Byte) (r : Bool) : Statement (.keyup kc r) := rfl
theorem movea (x y : Coord) (out : Bool) : Statement (.movea x y out) := rfl
theorem mover (dx dy : Byte) (out : Bool) : Statement (.mover dx dy out) := rfl
theorem btndown (btn : Byte) : Statement (.btndown btn) := rfl
theorem btnup (btn : Byte) : Statement (.btnup btn) := rfl
theorem scroll (t : Byte) : Statement (.scroll t) := rfl
theorem reset : Statement .reset := rfl
theorem pktKbd (mod rsv : Byte) (slots : Slots) (cks : Byte) : Statement (.pktKbd mod rsv slots cks) := by
  simp [Statement, bytesOf, encode, size, kbdBody, frameBody, hdr]
theorem pktAbs (mode btn : Byte) (x y : Word16) (scr cks : Byte) : Statement (.pktAbs mode btn x y scr cks) := rfl
theorem pktRel (mode btn dx dy w cks : Byte) : Statement (.pktRel mode btn dx dy w cks) := rfl
theorem pktRst (cks : Byte) : Statement (.pktRst cks) := rfl
theorem replyOk (cmd : BitVec 6) (len paySum cks : Byte) : Statement (.replyOk cmd len paySum cks) := by
  simp [Statement, bytesOf, encode, size, replyBytes, replyPayload_length, hdr]; omega
theorem replyErr (cmd : BitVec 6) (len paySum cks : Byte) : Statement (.replyErr cmd len paySum cks) := by
  simp [Statement, bytesOf, encode, size, replyBytes, replyPayload_length, hdr]; omega

end Sys2Proof.Laws.EncodedSize
end

