-- ==== Sys2Proof/Laws/Steps.lean ====
section
/-! SUPPORT. What one edge does in each control state, and how runs and observations unfold by one edge. -/

namespace Sys2Proof.Machine

/-- An edge that runs is no reset edge. -/
theorem Running.not_resetting {s : State} (h : Running s) : s.resetting = false := by
  simp [State.resetting, h.2.1, h.2.2]

/-- An edge that runs leaves what its fetched instruction leaves, and moves on (R133). -/
theorem step_of_fetch {s t : State} {i : Instr} (h : Running s) (hf : s.fetch = some i) (he : exec i s = .next t) :
    step s = .next (afterEdge s t) := by
  simp only [step, h.1, h.not_resetting, runEdge, hf, he]
  rfl

/-- An edge that runs and fetches nothing steps the control state machine (R133). -/
theorem step_of_no_fetch {s : State} (h : Running s) (hf : s.fetch = none) :
    step s = .next (afterEdge s (controlEdge s)) := by
  simp only [step, h.1, h.not_resetting, runEdge, hf]
  rfl

/-- A decoded event word is one of the eight events. -/
theorem decodeEvent_isEvent {w : EventWord} {i : Instr} (h : decodeEvent w = .ok i) : isEvent i = true := by
  unfold decodeEvent at h
  simp only at h
  repeat' split at h
  all_goals first | (cases h; rfl) | cases h

/-- A decoded packet is one of the four packets. -/
theorem decodePacket_isPacket {bytes rest : List Byte} {i : Instr} (h : decodePacket bytes = .ok (i, rest)) :
    isPacket i = true := by
  unfold decodePacket decodePacketRest at h
  repeat' split at h
  all_goals first | (cases h; rfl) | cases h

/-- The result of an event instruction; a packet or a reply frame has none. -/
def eventResult (i : Instr) (c : Config) (d : Device) : Option EventResult :=
  match i with
  | .keydown kc r => some (keydown c d kc r)
  | .keyup kc r => some (keyup c d kc r)
  | .movea x y out => some (movea c d x y out)
  | .mover dx dy out => some (mover c d dx dy out)
  | .btndown btn => some (btndown c d btn)
  | .btnup btn => some (btnup c d btn)
  | .scroll t => some (scroll c d t)
  | .reset => some (softReset d)
  | .pktKbd _ _ _ _ => none
  | .pktAbs _ _ _ _ _ _ => none
  | .pktRel _ _ _ _ _ _ => none
  | .pktRst _ => none
  | .replyOk _ _ _ _ => none
  | .replyErr _ _ _ _ => none

/-- The meaning of an event is what taking its result writes (R107), and the result depends on the configuration and the
device state alone. -/
theorem exec_event {i : Instr} (h : isEvent i = true) (s : State) :
    ∃ r, eventResult i s.cfg s.dev = some r ∧ exec i s = .next (commit s r) := by
  cases i <;> first | (cases h; done) | exact ⟨_, rfl, rfl⟩

/-- The meaning of a packet in TX is one edge in TX (R101). -/
theorem exec_packet_tx {i : Instr} {s : State} (h : isPacket i = true) (hw : s.ctl.fsm = .tx) :
    exec i s = .next (txEdge s) := by
  cases i <;> first | (cases h; done) | simp [exec, execPktKbd, execPktAbs, execPktRel, execPktRst, runPacket, hw]

/-- Every edge in TX that runs, whatever the buffer holds (R101, R133). -/
theorem step_tx {s : State} (h : Running s) (hw : s.ctl.fsm = .tx) : step s = .next (afterEdge s (txEdge s)) := by
  cases hf : s.fetch with
  | none => rw [step_of_no_fetch h hf]; simp [controlEdge, hw]
  | some i =>
    refine step_of_fetch h hf (exec_packet_tx ?_ hw)
    simp only [State.fetch, hw] at hf
    cases hd : decodePacket s.framer.pkt.toList with
    | error e => simp [hd, Except.map, Except.toOption] at hf
    | ok v =>
      simp only [hd, Except.map, Except.toOption, Option.some.injEq] at hf
      exact decodePacket_isPacket (rest := v.2) (by rw [hd, ← hf])

/-- A reply code's low six bits and its class give the code back. -/
theorem code_of_class (c : Byte) : (c.extractLsb' 6 2 = 0b10#2 → okCode (c.extractLsb' 0 6) = c) ∧
    (c.extractLsb' 6 2 = 0b11#2 → errCode (c.extractLsb' 0 6) = c) := by
  have h : ∀ k : BitVec 2, c.extractLsb' 6 2 = k → k ++ c.extractLsb' 0 6 = c := by
    rintro k rfl
    apply BitVec.eq_of_getLsbD_eq
    intro i hi
    simp only [BitVec.getLsbD_append, BitVec.getLsbD_extractLsb']
    by_cases h6 : i < 6
    · simp [h6]
    · simp [h6, show i - 6 < 2 by omega, show 6 + (i - 6) = i by omega]
  exact ⟨h _, h _⟩

/-- The meaning of a reply instruction in WAIT is one edge in WAIT with its frame (R109). -/
theorem exec_reply_wait {code len paySum cks : Byte} {i : Instr} {s : State}
    (h : replyOfCode code len paySum cks = some i) (hw : s.ctl.fsm = .wait) :
    exec i s = .next (waitEdge (some ⟨cks == replySum code len paySum, code⟩) s) := by
  unfold replyOfCode at h
  split at h
  · rename_i hc
    cases h
    simp [exec, execReplyOk, (code_of_class code).1 hc, runReply, hw]
  · split at h
    · rename_i hc
      cases h
      simp [exec, execReplyErr, (code_of_class code).2 hc, runReply, hw]
    · cases h

/-- Every edge in WAIT that runs, with the frame that ends at it if one does (R109, R110, R133). -/
theorem step_wait {s : State} (h : Running s) (hw : s.ctl.fsm = .wait) :
    step s = .next (afterEdge s (waitEdge s.frame s)) := by
  cases hf : s.fetch with
  | none => rw [step_of_no_fetch h hf]; simp [controlEdge, hw]
  | some i =>
    have hr := hf
    simp only [State.fetch, hw, State.endingReply] at hr
    cases hfr : s.frame with
    | none => simp [hfr] at hr
    | some f =>
      simp only [hfr] at hr
      have he := exec_reply_wait hr hw
      rw [show replySum s.rx.rxCmd s.rx.rxLen (s.rx.rxSum - checksum (hdr ++ [s.rx.rxCmd, s.rx.rxLen])) = s.rx.rxSum by
        simp [replySum]] at he
      rw [step_of_fetch h hf he]
      unfold State.frame at hfr
      split at hfr
      · rw [(rxFrame_eq_some hfr).2]
      · cases hfr

/-- Every edge in DONE that runs (R111, R133). -/
theorem step_done {s : State} (h : Running s) (hw : s.ctl.fsm = .done) :
    step s = .next (afterEdge s { s with ctl := { s.ctl with fsm := .idle } }) := by
  rw [step_of_no_fetch h (by simp [State.fetch, hw])]
  simp [controlEdge, hw]

/-- Every edge in IDLE that runs and takes an event word (R107, R133). -/
theorem step_idle {s : State} (h : Running s) (hw : s.ctl.fsm = .idle) (hv : s.pins.evtValid = true) :
    ∃ r, step s = .next (afterEdge s (commit s r)) ∧
      ((∃ i, decodeEvent s.pins.evtData = .ok i ∧ exec i s = .next (commit s r)) ∨
       ((decodeEvent s.pins.evtData).toOption = none ∧ r = malformed)) := by
  cases hd : decodeEvent s.pins.evtData with
  | ok i =>
    obtain ⟨r, _, he⟩ := exec_event (decodeEvent_isEvent hd) s
    exact ⟨r, step_of_fetch h (by simp [State.fetch, hw, hv, hd, Except.toOption]) he, .inl ⟨i, rfl, he⟩⟩
  | error e =>
    refine ⟨malformed, ?_, .inr ⟨rfl, rfl⟩⟩
    rw [step_of_no_fetch h (by simp [State.fetch, hw, hv, hd, Except.toOption])]
    simp [controlEdge, hw, hv]

/-- Everything a step that answers a next state has done, by control state (R133). -/
theorem step_next_cases {s t : State} (h : step s = .next t) :
    (legalConfig s.cfg = true ∧ s.resetting = true ∧ t = resetEdge s) ∨
    (Running s ∧ s.ctl.fsm = .idle ∧ s.pins.evtValid = false ∧ t = afterEdge s s) ∨
    (Running s ∧ s.ctl.fsm = .idle ∧ s.pins.evtValid = true ∧ ∃ r, t = afterEdge s (commit s r) ∧
      ((∃ i, decodeEvent s.pins.evtData = .ok i ∧ exec i s = .next (commit s r)) ∨
       ((decodeEvent s.pins.evtData).toOption = none ∧ r = malformed))) ∨
    (Running s ∧ s.ctl.fsm = .tx ∧ t = afterEdge s (txEdge s)) ∨
    (Running s ∧ s.ctl.fsm = .wait ∧ t = afterEdge s (waitEdge s.frame s)) ∨
    (Running s ∧ s.ctl.fsm = .done ∧ t = afterEdge s { s with ctl := { s.ctl with fsm := .idle } }) := by
  have hrun : s.resetting = false → legalConfig s.cfg = true → Running s := by
    intro hr hl
    simp only [State.resetting, Bool.or_eq_false_iff] at hr
    exact ⟨hl, hr.1, hr.2⟩
  rcases step_cases s with ⟨_, h2⟩ | ⟨h1, h2, h3⟩ | ⟨h1, h2, _⟩ | ⟨h1, h2, _⟩
  · rw [h2] at h; cases h
  · rw [h3] at h; cases h; exact .inl ⟨h1, h2, rfl⟩
  all_goals
    have hr := hrun h2 h1
    refine .inr ?_
    cases hw : s.ctl.fsm
    · cases hv : s.pins.evtValid
      · rw [step_of_no_fetch hr (by simp [State.fetch, hw, hv])] at h
        cases h
        exact .inl ⟨hr, rfl, rfl, by simp [controlEdge, hw, hv]⟩
      · obtain ⟨r, h4, h5⟩ := step_idle hr hw hv
        rw [h4] at h
        cases h
        exact .inr (.inl ⟨hr, rfl, rfl, r, rfl, h5⟩)
    · rw [step_tx hr hw] at h; cases h; exact .inr (.inr (.inl ⟨hr, rfl, rfl⟩))
    · rw [step_wait hr hw] at h; cases h; exact .inr (.inr (.inr (.inl ⟨hr, rfl, rfl⟩)))
    · rw [step_done hr hw] at h; cases h; exact .inr (.inr (.inr (.inr ⟨hr, rfl, rfl⟩)))

/-- One more edge at the front of a run. -/
theorem runEdges_succ {n : Nat} {s t : State} (h : step s = .next t) : runEdges (n + 1) s = runEdges n t := by
  simp only [runEdges, Host.Core.run]
  rw [show Sys2Proof.core.step s = step s from rfl, h]

/-- One more edge at the front of an observation. -/
theorem observe_succ {n : Nat} {s t : State} (h : step s = .next t) : observe (n + 1) s = s.transfers :: observe n t := by
  simp only [observe, h]

/-- A run is ended exactly where its records name the events, each with a completion, and it comes to IDLE (R144). -/
theorem runEnded_iff {events : List EventWord} {n : Nat} {s : State} :
    runEnded events n s = true ↔ (records (observe n s)).map Prod.fst = events ∧
      (∀ r ∈ records (observe n s), r.2.isSome = true) ∧ ∃ t, runEdges n s = .next t ∧ t.ctl.fsm = .idle := by
  unfold runEnded
  cases runEdges n s <;> simp [and_assoc]

/-- What an event word does is what its event's result says. -/
theorem takeWord_of_decode {w : EventWord} {i : Instr} {c : Config} {d : Device} {r : EventResult}
    (h : decodeEvent w = .ok i) (hr : eventResult i c d = some r) : takeWord c d w = (r.device d, r.packet) := by
  obtain ⟨r', h1, h2⟩ := exec_event (decodeEvent_isEvent h) { State.resetWith c [quietPins] 0 with dev := d }
  obtain rfl : r = r' := Option.some.inj (hr.symm.trans h1)
  simp only [takeWord, h, h2]
  cases r with
  | error st => rfl
  | noSend d' => rfl
  | suppress d' => rfl
  | send d' p => exact congrArg (Prod.mk d') (loadPacket_take d' p _)

/-- A malformed word does nothing (R88). -/
theorem takeWord_of_malformed {w : EventWord} {c : Config} {d : Device} (h : (decodeEvent w).toOption = none) :
    takeWord c d w = (d, []) := by
  cases hw : decodeEvent w with
  | ok i => simp [hw, Except.toOption] at h
  | error e => simp only [takeWord, hw]

/-- Every edge in IDLE that takes an event word writes the result that `takeWord` describes (R107). -/
theorem step_idle_takeWord {s : State} (h : Running s) (hw : s.ctl.fsm = .idle) (hv : s.pins.evtValid = true) :
    ∃ r, step s = .next (afterEdge s (commit s r)) ∧
      takeWord s.cfg s.dev s.pins.evtData = (r.device s.dev, r.packet) := by
  cases hd : decodeEvent s.pins.evtData with
  | ok i =>
    obtain ⟨r, hr, he⟩ := exec_event (decodeEvent_isEvent hd) s
    exact ⟨r, step_of_fetch h (by simp [State.fetch, hw, hv, hd, Except.toOption]) he, takeWord_of_decode hd hr⟩
  | error e =>
    refine ⟨malformed, ?_, takeWord_of_malformed (by rw [hd]; rfl)⟩
    rw [step_of_no_fetch h (by simp [State.fetch, hw, hv, hd, Except.toOption])]
    simp [controlEdge, hw, hv]

/-- A scripted edge without reset, in a legal configuration, runs. -/
theorem running_cons {s : State} {p : Pins} {ps : List Pins} (hl : legalConfig s.cfg = true)
    (hi : s.inputs = p :: ps) (h : NoReset p) : Running s := by
  refine ⟨hl, ?_, ?_⟩ <;> rw [pins_cons s p ps hi]
  exacts [h.1, h.2]

/-- A frame with a bad checksum (R109). -/
theorem judge_bad {c code : Byte} {ok : Bool} (h : ok = false) : judge c ⟨ok, code⟩ = some .checksumMismatch := by
  simp [judge, h]

/-- The success code (R109). -/
theorem judge_ok {c code : Byte} {ok : Bool} (h : ok = true) (h1 : code = c ||| 0x80) : judge c ⟨ok, code⟩ = some .ok := by
  subst h
  unfold judge
  rw [if_neg (by simp), if_pos h1]

/-- The error code (R109). -/
theorem judge_error {c code : Byte} {ok : Bool} (h : ok = true) (h1 : code ≠ c ||| 0x80) (h2 : code = c ||| 0xC0) :
    judge c ⟨ok, code⟩ = some .deviceError := by
  subst h
  unfold judge
  rw [if_neg (by simp), if_neg h1, if_pos h2]

/-- A well-formed frame of another code is ignored (R109). -/
theorem judge_other {c code : Byte} {ok : Bool} (h : ok = true) (h1 : code ≠ c ||| 0x80) (h2 : code ≠ c ||| 0xC0) :
    judge c ⟨ok, code⟩ = none := by
  subst h
  unfold judge
  rw [if_neg (by simp), if_neg h1, if_neg h2]

end Sys2Proof.Machine
end

