-- ==== Sys2Proof/Tests/Slice0.lean ====
section
/-! SUPPORT. The model's own tests: ill-formed terms that the checks refuse, words written out from the spec's encodings,
one-edge runs whose results stand in 95_test_vectors.md, and a witness for every statement with hypotheses. -/

namespace Sys2Proof.Tests

open Machine

/-! ### Each check of `wellFormed` refuses an ill-formed term -/

theorem test_wellFormed_pktKbd_refuses : (Instr.pktKbd 0x01 0x01 #v[4, 0, 0, 0, 0, 0] 0x12).wellFormed = false ∧
    (Instr.pktKbd 0x01 0x00 #v[4, 0, 0, 0, 0, 0] 0x10).wellFormed = false := by decide

theorem test_wellFormed_pktAbs_refuses_mode : (Instr.pktAbs 0x01 0x01 4095 0 0x00 0x1D).wellFormed = false := by decide
theorem test_wellFormed_pktAbs_refuses_btn : (Instr.pktAbs 0x02 0x08 4095 0 0x00 0x25).wellFormed = false := by decide
theorem test_wellFormed_pktAbs_refuses_coords : (Instr.pktAbs 0x02 0x01 4096 0 0x00 0x20).wellFormed = false ∧
    (Instr.pktAbs 0x02 0x01 0 4096 0x00 0x20).wellFormed = false := by decide
theorem test_wellFormed_pktAbs_refuses_scroll : (Instr.pktAbs 0x02 0x01 4095 0 0x01 0x1F).wellFormed = false := by decide
theorem test_wellFormed_pktAbs_refuses_checksum : (Instr.pktAbs 0x02 0x01 4095 0 0x00 0x1F).wellFormed = false := by decide

theorem test_wellFormed_pktRel_refuses_mode : (Instr.pktRel 0x02 0x02 0xFF 0x01 0x00 0x10).wellFormed = false := by decide
theorem test_wellFormed_pktRel_refuses_btn : (Instr.pktRel 0x01 0x08 0x00 0x00 0x00 0x15).wellFormed = false := by decide
theorem test_wellFormed_pktRel_refuses_deltas : (Instr.pktRel 0x01 0x00 0x80 0x00 0x00 0x8D).wellFormed = false ∧
    (Instr.pktRel 0x01 0x00 0x00 0x80 0x00 0x8D).wellFormed = false := by decide
theorem test_wellFormed_pktRel_refuses_checksum : (Instr.pktRel 0x01 0x02 0xFF 0x01 0x00 0x0E).wellFormed = false := by decide

theorem test_wellFormed_pktRst_refuses_checksum : (Instr.pktRst 0x12).wellFormed = false := by decide

theorem test_wellFormed_replies_refuse_checksum : (Instr.replyOk 0x02 1 0 0x84).wellFormed = false ∧
    (Instr.replyErr 0x02 1 0 0xC4).wellFormed = false := by decide
theorem test_wellFormed_replies_refuse_sum_of_no_bytes : (Instr.replyOk 0x02 0 1 0x85).wellFormed = false ∧
    (Instr.replyErr 0x02 0 1 0xC5).wellFormed = false := by decide

/-! ### Words written out from the spec's encodings: the rows of 95_test_vectors.md section 2.1, the packets of 43_framer.md
and 95 section 1.8, the reply frames of 95's Conventions (44_correlator.md) -/

theorem test_decode_keydown : decode (.event 0b0000000000000000000000000000000101000001) = .ok (.keydown 65 true) ∧
    decode (.event 0x0000000041) = .ok (.keydown 65 false) := by decide
theorem test_decode_keyup : decode (.event 0x01000000FF) = .ok (.keyup 255 false) := by decide
theorem test_decode_movea : decode (.event 0x0200FFFFFF) = .ok (.movea 4095 4095 false) ∧
    decode (.event 0x0240064078) = .ok (.movea 100 120 true) := by decide
theorem test_decode_mover : decode (.event 0x02800080FF) = .ok (.mover 0x80 0xFF false) ∧
    decode (.event 0x02C0000000) = .ok (.mover 0 0 true) := by decide
theorem test_decode_btndown : decode (.event 0x0300000003) = .ok (.btndown 3) := by decide
theorem test_decode_btnup : decode (.event 0x0400000000) = .ok (.btnup 0) := by decide
theorem test_decode_scroll : decode (.event 0x0500000080) = .ok (.scroll 0x80) := by decide
theorem test_decode_reset : decode (.event 0xFF00000000) = .ok .reset := by decide
theorem test_decode_refuses_reserved_bits : decode (.event 0x0000000241) = .error .reservedBits ∧
    decode (.event 0x0180000041) = .error .reservedBits ∧ decode (.event 0x02FFFFFFFF) = .error .reservedBits ∧
    decode (.event 0x0280010000) = .error .reservedBits ∧ decode (.event 0x0201000000) = .error .reservedBits ∧
    decode (.event 0x0300000100) = .error .reservedBits ∧ decode (.event 0x0500000100) = .error .reservedBits ∧
    decode (.event 0xFF00000001) = .error .reservedBits := by decide
theorem test_decode_refuses_unassigned_opcodes : decode (.event 0x0600000000) = .error (.unassignedOpcode 0x06) ∧
    decode (.event 0xFE00000000) = .error (.unassignedOpcode 0xFE) ∧
    decode (.event 0x8000000000) = .error (.unassignedOpcode 0x80) := by decide

theorem test_decode_pktKbd :
    decode (.packet [0x57, 0xAB, 0x00, 0x02, 0x08, 0x01, 0x00, 0x04, 0x05, 0x06, 0x07, 0x08, 0x09, 0x34]) =
      .ok (.pktKbd 0x01 0x00 #v[4, 5, 6, 7, 8, 9] 0x34) := by decide
theorem test_decode_pktAbs :
    decode (.packet [0x57, 0xAB, 0x00, 0x04, 0x07, 0x02, 0x01, 0xFF, 0x0F, 0x00, 0x00, 0x00, 0x1E]) =
      .ok (.pktAbs 0x02 0x01 4095 0 0x00 0x1E) := by decide
theorem test_decode_pktRel :
    decode (.packet [0x57, 0xAB, 0x00, 0x05, 0x05, 0x01, 0x02, 0xFF, 0x01, 0x00, 0x0F]) =
      .ok (.pktRel 0x01 0x02 0xFF 0x01 0x00 0x0F) := by decide
theorem test_decode_pktRst : decode (.packet [0x57, 0xAB, 0x00, 0x0F, 0x00, 0x11]) = .ok (.pktRst 0x11) := by decide
theorem test_decode_packet_refuses : decode (.packet [0x57, 0xAA, 0x00, 0x0F, 0x00, 0x11]) = .error .badSync ∧
    decode (.packet [0x57, 0xAB, 0x00, 0x03, 0x00, 0x05]) = .error (.unknownCommand 0x03) ∧
    decode (.packet [0x57, 0xAB, 0x00, 0x0F, 0x01, 0x12]) = .error (.wrongLength 0x0F 0x01) ∧
    decode (.packet [0x57, 0xAB, 0x00, 0x0F, 0x00]) = .error .truncated := by decide

theorem test_decode_replyOk :
    decode (.reply [0x57, 0xAB, 0x00, 0x82, 0x01, 0x00, 0x85]) = .ok (.replyOk 0x02 1 0 0x85) := by decide
theorem test_decode_replyErr :
    decode (.reply [0x57, 0xAB, 0x00, 0xCF, 0x02, 0x10, 0xF5, 0xD8]) = .ok (.replyErr 0x0F 2 0x05 0xD8) := by decide
theorem test_decode_reply_refuses : decode (.reply [0x57, 0xAB, 0x00, 0x42, 0x00, 0x44]) = .error (.notAReply 0x42) ∧
    decode (.reply [0x57, 0xAB, 0x01, 0x82, 0x00, 0x85]) = .error .badSync ∧
    decode (.reply [0x57, 0xAB, 0x00, 0x82, 0x01, 0x00]) = .error .truncated := by decide

theorem test_encode_matches_written_words : encode (.keydown 65 true) = .event 0x0000000141 ∧
    encode (.keyup 255 false) = .event 0x01000000FF ∧ encode (.movea 120 100 true) = .event 0x0240078064 ∧
    encode (.mover 0x80 0x7F true) = .event 0x02C000807F ∧ encode (.btndown 3) = .event 0x0300000003 ∧
    encode (.btnup 0) = .event 0x0400000000 ∧ encode (.scroll 0xFF) = .event 0x05000000FF ∧
    encode .reset = .event 0xFF00000000 ∧
    encode (.replyOk 0x02 1 0 0x85) = .reply [0x57, 0xAB, 0x00, 0x82, 0x01, 0x00, 0x85] := by decide

/-! ### One edge per instruction, with the results of 95_test_vectors.md -/

/-- The next state, where there is one. -/
def next? : Host.Outcome State Fault Refusal → Option State
  | .next t => some t
  | .fault _ => none
  | .refused _ => none

/-- A device state, written as the vectors write it. -/
def device (mod : Byte) (slots : Slots) (btn : Byte) (x y : Word16) (oob : Bool) : Device :=
  { kbd := ⟨mod, slots⟩, mouse := ⟨btn, x, y⟩, oob := oob }

/-- The block in IDLE with this device state, and these pins at the next edge. -/
def idle (d : Device) (p : Pins) : State := ({ State.reset with dev := d } : State).withPins p

/-- Pins that offer an event word, with the link open or not. -/
def offer (w : EventWord) (link : Bool) : Pins := { quietPins with evtValid := true, evtData := w, linkUp := link }

/-- Status, command byte, device state and packet after an event is taken. -/
def taken (w : EventWord) (d : Device) (link : Bool := true) : Option (Status × Byte × Device × List Byte) :=
  (next? (step (idle d (offer w link)))).map fun t =>
    (t.ctl.cmplStatus, t.ctl.cmplCmd, t.dev, if t.ctl.fsm = .tx then t.framer.pkt.toList.take t.framer.pktLen.toNat else [])

/-- No key held. -/
def noKeys : Slots := #v[0, 0, 0, 0, 0, 0]

/-- 95 section 2.2 rows 17 and 14. -/
theorem test_keydown_fills_the_hole :
    taken 0x0000000048 (device 0 #v[4, 0, 6, 7, 8, 9] 0 0 0 false) =
      some (.ok, 0x02, device 0 #v[4, 0x0B, 6, 7, 8, 9] 0 0 0 false,
        [0x57, 0xAB, 0x00, 0x02, 0x08, 0x00, 0x00, 0x04, 0x0B, 0x06, 0x07, 0x08, 0x09, 0x39]) ∧
    taken 0x0000000048 (device 0 #v[4, 5, 6, 7, 8, 9] 0 0 0 false) =
      some (.keyboardSlotsExhausted, 0x00, device 0 #v[4, 5, 6, 7, 8, 9] 0 0 0 false, []) := by decide
/-- 95 section 2.2 rows 7 and 24. -/
theorem test_keydown_of_modifier_and_closed_link :
    taken 0x00000001E0 (device 0 noKeys 0 0 0 false) =
      some (.ok, 0x02, device 0x80 noKeys 0 0 0 false,
        [0x57, 0xAB, 0x00, 0x02, 0x08, 0x80, 0x00, 0x00, 0x00, 0x00, 0x00, 0x00, 0x00, 0x8C]) ∧
    taken 0x0000000042 (device 0 #v[4, 0, 0, 0, 0, 0] 0 0 0 false) false =
      some (.transportUnavailable, 0x02, device 0 #v[4, 5, 0, 0, 0, 0] 0 0 0 false, []) := by decide
/-- 95 section 2.2 rows 4 and 16. -/
theorem test_keyup_clears_its_own_side_and_leaves_a_hole :
    taken 0x0100000010 (device 0x22 noKeys 0 0 0 false) =
      some (.ok, 0x02, device 0x20 noKeys 0 0 0 false,
        [0x57, 0xAB, 0x00, 0x02, 0x08, 0x20, 0x00, 0x00, 0x00, 0x00, 0x00, 0x00, 0x00, 0x2C]) ∧
    taken 0x0100000042 (device 0 #v[4, 5, 6, 7, 8, 9] 0 0 0 false) =
      some (.ok, 0x02, device 0 #v[4, 0, 6, 7, 8, 9] 0 0 0 false,
        [0x57, 0xAB, 0x00, 0x02, 0x08, 0x00, 0x00, 0x04, 0x00, 0x06, 0x07, 0x08, 0x09, 0x2E]) := by decide
/-- 95 section 2.3 rows 2 and 33. -/
theorem test_movea_stores_and_is_guarded :
    taken 0x0200FFFFFF (device 0 noKeys 0 0 0 false) =
      some (.ok, 0x04, device 0 noKeys 0 4095 4095 false,
        [0x57, 0xAB, 0x00, 0x04, 0x07, 0x02, 0x00, 0xFF, 0x0F, 0xFF, 0x0F, 0x00, 0x2B]) ∧
    taken 0x024000A014 (device 0 noKeys 0 7 7 true) =
      some (.suppressed, 0x00, device 0 noKeys 0 7 7 true, []) := by decide
/-- 95 section 2.3 rows 6 and 26. -/
theorem test_mover_remaps_and_is_guarded :
    taken 0x0280008180 (device 0 noKeys 0 0 0 false) =
      some (.ok, 0x05, device 0 noKeys 0 0 0 false,
        [0x57, 0xAB, 0x00, 0x05, 0x05, 0x01, 0x00, 0x81, 0x81, 0x00, 0x0F]) ∧
    taken 0x02C0000505 (device 0 noKeys 0 0 0 false) =
      some (.suppressed, 0x00, device 0 noKeys 0 0 0 true, []) := by decide
/-- 95 section 2.3 rows 10 and 31. -/
theorem test_btndown_sets_its_bit_and_checks_its_index :
    taken 0x0300000003 (device 0 noKeys 0x01 0 0 false) =
      some (.ok, 0x05, device 0 noKeys 0x05 0 0 false,
        [0x57, 0xAB, 0x00, 0x05, 0x05, 0x01, 0x05, 0x00, 0x00, 0x00, 0x12]) ∧
    taken 0x0300000009 (device 0 noKeys 0 0 0 true) =
      some (.invalidOpcode, 0x00, device 0 noKeys 0 0 0 true, []) := by decide
/-- 95 section 2.3 rows 13 and 15. -/
theorem test_btnup_clears_one_or_all :
    taken 0x0400000002 (device 0 noKeys 0x07 0 0 false) =
      some (.ok, 0x05, device 0 noKeys 0x05 0 0 false,
        [0x57, 0xAB, 0x00, 0x05, 0x05, 0x01, 0x05, 0x00, 0x00, 0x00, 0x12]) ∧
    taken 0x0400000000 (device 0 noKeys 0x07 0 0 false) =
      some (.ok, 0x05, device 0 noKeys 0x00 0 0 false,
        [0x57, 0xAB, 0x00, 0x05, 0x05, 0x01, 0x00, 0x00, 0x00, 0x00, 0x0D]) := by decide
/-- 95 section 2.3 rows 18 and 20. -/
theorem test_scroll_sends_the_wheel_byte :
    taken 0x0500000080 (device 0 noKeys 0 0 0 false) =
      some (.ok, 0x05, device 0 noKeys 0 0 0 false,
        [0x57, 0xAB, 0x00, 0x05, 0x05, 0x01, 0x00, 0x00, 0x00, 0x01, 0x0E]) ∧
    taken 0x050000007F (device 0 noKeys 0 0 0 false) =
      some (.ok, 0x05, device 0 noKeys 0 0 0 false,
        [0x57, 0xAB, 0x00, 0x05, 0x05, 0x01, 0x00, 0x00, 0x00, 0xFE, 0x0B]) := by decide
/-- 42_system.md R87, 43_framer.md R97. -/
theorem test_reset_clears_and_sends :
    taken 0xFF00000000 (device 0xFF #v[4, 5, 6, 7, 8, 9] 0x07 1 2 true) =
      some (.ok, 0x0F, device 0 noKeys 0 0 0 true, [0x57, 0xAB, 0x00, 0x0F, 0x00, 0x11]) := by decide

/-- The block in TX with these bytes in the buffer, and this byte the next to go. -/
def sending (bytes : List Byte) (idx : BitVec 4) : State :=
  let s := placePacket bytes State.reset
  { s with framer := { s.framer with txIdx := idx } }

/-- The byte index after an edge in TX, whether the wait has begun, and its command. -/
def sent (s : State) : Option (BitVec 4 × Fsm × Byte × Nat) :=
  (next? (step s)).map fun t => (t.framer.txIdx, t.ctl.fsm, t.ctl.pendCmd, t.ctl.pendTimer)

/-- 43_framer.md R101: an inner byte, and the checksum byte, of each packet. -/
theorem test_pktKbd_bytes_go_out :
    sent (sending [0x57, 0xAB, 0x00, 0x02, 0x08, 0, 0, 4, 0, 0, 0, 0, 0, 0x10] 12) = some (13, .tx, 0, 0) ∧
    sent (sending [0x57, 0xAB, 0x00, 0x02, 0x08, 0, 0, 4, 0, 0, 0, 0, 0, 0x10] 13) = some (13, .wait, 2, 16) := by decide
theorem test_pktAbs_bytes_go_out :
    sent (sending [0x57, 0xAB, 0x00, 0x04, 0x07, 2, 0, 0, 0, 0, 0, 0, 0x0F] 0) = some (1, .tx, 0, 0) ∧
    sent (sending [0x57, 0xAB, 0x00, 0x04, 0x07, 2, 0, 0, 0, 0, 0, 0, 0x0F] 12) = some (12, .wait, 4, 16) := by decide
theorem test_pktRel_bytes_go_out :
    sent (sending [0x57, 0xAB, 0x00, 0x05, 0x05, 1, 0, 0, 0, 0, 0x0D] 9) = some (10, .tx, 0, 0) ∧
    sent (sending [0x57, 0xAB, 0x00, 0x05, 0x05, 1, 0, 0, 0, 0, 0x0D] 10) = some (10, .wait, 5, 16) := by decide
theorem test_pktRst_bytes_go_out :
    sent (sending [0x57, 0xAB, 0x00, 0x0F, 0x00, 0x11] 4) = some (5, .tx, 0, 0) ∧
    sent (sending [0x57, 0xAB, 0x00, 0x0F, 0x00, 0x11] 5) = some (5, .wait, 0x0F, 16) := by decide

/-- The block in WAIT for a command, this many edges before the deadline, at the checksum byte of a frame with this
code and no payload. -/
def awaiting (cmd : Byte) (timer : Nat) (code cks : Byte) : State :=
  let s := placeReply code 0 0 cks State.reset
  { s with ctl := { s.ctl with pendCmd := cmd, cmplCmd := cmd, pendTimer := timer } }

/-- Control state, status and timer after an edge. -/
def judged (s : State) : Option (Fsm × Status × Nat) :=
  (next? (step s)).map fun t => (t.ctl.fsm, t.ctl.cmplStatus, t.ctl.pendTimer)

/-- 44_correlator.md R109: success, and another command's success ignored. -/
theorem test_replyOk_resolves_or_is_ignored : judged (awaiting 0x02 1 0x82 0x84) = some (.done, .ok, 1) ∧
    judged (awaiting 0x02 9 0x84 0x86) = some (.wait, .ok, 8) := by decide
/-- 44_correlator.md R109 and R110: the error code, and a bad checksum. -/
theorem test_replyErr_resolves : judged (awaiting 0x05 9 0xC5 0xC7) = some (.done, .deviceError, 9) ∧
    judged (awaiting 0x05 9 0xC5 0xC6) = some (.done, .checksumMismatch, 9) := by decide

/-- 42_system.md R88. -/
theorem test_malformed_word_completes : taken 0x0600000000 (device 1 noKeys 2 3 4 true) =
    some (.invalidOpcode, 0x00, device 1 noKeys 2 3 4 true, []) := by decide

/-- The default configuration is legal, and the placed words of the table run from reset. -/
theorem test_placed_words_run :
    (next? (step (State.reset.withFetchWord 40 0x0000000041))).map (·.ctl.cmplCmd) = some 0x02 ∧
    (next? (step (State.reset.withFetchWord 40 0x57AB000F00))).map (·.framer.txIdx) = some 1 ∧
    (next? (step (State.reset.withFetchWord 32 0x57AB0082))).map (·.ctl.cmplStatus) = some .checksumMismatch := by decide

/-- The block after reset, with these edges to come. -/
def script (ps : List Pins) : State := State.resetWith standardConfig ps 0

/-- R144: a run whose event's completion is shown has ended; one whose second event was offered to a busy block and
dropped, one cut by teardown, and one that stops before DONE is over have not. -/
theorem test_run_ended : runEnded [0x0500000000] 2 (script [offer 0x0500000000 true, quietPins]) = true ∧
    runEnded [0x0500000000, 0x0500000000] 2 (script [offer 0x0500000000 true, offer 0x0500000000 true]) = false ∧
    runEnded [0x0500000000] 2 (script [offer 0x0500000000 true, { quietPins with teardown := true }]) = false ∧
    runEnded [0x0500000000] 1 (script [offer 0x0500000000 true]) = false := by decide

/-- Lines of assembly (R64). -/
theorem test_assemble_lines :
    assembleLine "MOVER -128, 0x7F ; a comment".toList = .ok [.mover 0x80 0x7F false] ∧
    assembleLine "KEYDOWN 65, R".toList = .ok [.keydown 65 true] ∧
    assembleLine "MOVEA 4096, 0".toList = .error .doesNotFit := by decide

/-! ### Witnesses: states and operands that meet the hypotheses of the statements of Obligations.lean -/

/-- The block in IDLE, no key held, with these pins next. -/
def fresh (p : Pins) : State := State.reset.withPins p

/-- A configuration like the default one but for a field. -/
def withConfig (c : Config) : State := State.resetWith c [quietPins] 0

/-- A block in WAIT with this timer and these edges to come. -/
def waiting (timer : Nat) (ps : List Pins) : State :=
  { State.resetWith standardConfig ps 0 with
    ctl := { fsm := .wait, pendCmd := 0x02, pendTimer := timer, cmplStatus := .ok, cmplCmd := 0x02 } }

/-- Pins with a reply byte. -/
def rxByte (b : Byte) : Pins := { quietPins with rxValid := true, rxData := b }

theorem running_of {s : State} (h : s.cfg = standardConfig) (hr : s.resetting = false) : Running s := by
  refine ⟨by rw [h]; decide, ?_, ?_⟩ <;> revert hr <;> cases h1 : s.pins.rst <;> cases h2 : s.pins.teardown <;>
    simp [State.resetting, h1, h2]

theorem witness_DecodeOfEncodeIsTheInstruction :
    [Instr.keydown 0xFF true, .keyup 0 false, .movea 4095 0 true, .mover 0x80 0x7F true, .btndown 0xFF, .btnup 0,
     .scroll 0x80, .reset, .pktKbd 1 0 #v[4, 0, 0, 0, 0, 0] 0x11, .pktAbs 2 7 4095 4095 0 0x32, .pktRel 1 7 0x81 0x7F 0xFE 0x12,
     .pktRst 0x11, .replyOk 0x3F 0 0 0xC1, .replyErr 0x3F 0xFF 0xFF 0xFF].all Instr.wellFormed = true := by decide

theorem witness_EventDecodeInvertsEncode : encode (.keyup 255 true) = .event 0x01000001FF := by decide

theorem witness_PacketDecodeInvertsEncode :
    decodePacket ([0x57, 0xAB, 0x00, 0x0F, 0x00, 0x11] ++ [0x57]) = .ok (.pktRst 0x11, [0x57]) := by decide

/-- One witness for each control state that fetches. -/
theorem witness_StepRunsTheFetchedInstruction :
    (∃ s t, Running s ∧ exec (.btnup 0) s = .next t ∧ s.ctl.fsm = .idle ∧ s.pins.evtValid = true ∧
      decodeEvent s.pins.evtData = .ok (.btnup 0)) ∧
    (∃ s t, Running s ∧ exec (.pktRst 0x11) s = .next t ∧ s.ctl.fsm = .tx ∧
      ∃ rest, decodePacket s.framer.pkt.toList = .ok (.pktRst 0x11, rest)) ∧
    (∃ s t, Running s ∧ exec (.replyOk 0x02 0 0 0x84) s = .next t ∧ s.ctl.fsm = .wait ∧ s.pins.rxValid = true ∧
      s.rx.rxSt = .sum ∧ replyOfCode s.rx.rxCmd s.rx.rxLen
        (s.rx.rxSum - additive [0x57, 0xAB, 0x00, s.rx.rxCmd, s.rx.rxLen]) s.pins.rxData =
          some (.replyOk 0x02 0 0 0x84)) :=
  ⟨⟨fresh (offer 0x0400000000 true), _, running_of rfl rfl, rfl, rfl, rfl, by decide⟩,
   ⟨sending [0x57, 0xAB, 0x00, 0x0F, 0x00, 0x11] 0, _, running_of rfl rfl, rfl, rfl, [0, 0, 0, 0, 0, 0, 0, 0], by decide⟩,
   ⟨awaiting 0x02 1 0x82 0x84, _, running_of rfl rfl, rfl, rfl, rfl, rfl, by decide⟩⟩

theorem witness_PlacedWordIsFetched : decodeTableWord 40 0x57AB000208 = some (.pktKbd 0 0 noKeys 0) ∧
    decodeTableWord 40 0x02FFFFFFFF = none ∧ decodeTableWord 32 0x57AB00FF = some (.replyErr 0x3F 0 0 0) := by decide

theorem witness_IdleEdgeWithoutEventKeepsState :
    Running (fresh quietPins) ∧ (fresh quietPins).ctl.fsm = .idle ∧ (fresh quietPins).pins.evtValid = false :=
  ⟨running_of rfl rfl, rfl, rfl⟩

/-- A block that shows a completion. -/
def reporting : State :=
  { fresh quietPins with
    ctl := { fsm := .done, pendCmd := 0x02, pendTimer := 1, cmplStatus := .replyTimeout, cmplCmd := 0x02 } }

theorem witness_DoneShowsCompletionForOneCycle :
    (Running reporting ∧ reporting.ctl.fsm = .done) ∧
    (Running (fresh quietPins) ∧ (fresh quietPins).ctl.fsm = .idle ∧ (fresh quietPins).pins.evtValid = false) :=
  ⟨⟨running_of rfl rfl, rfl⟩, running_of rfl rfl, rfl, rfl⟩

theorem witness_ResetEdgeResetsEveryRegister :
    (legalConfig (fresh { quietPins with rst := true }).cfg = true ∧ (fresh { quietPins with rst := true }).pins.rst = true) ∧
    (legalConfig (fresh { quietPins with teardown := true }).cfg = true ∧
      (fresh { quietPins with teardown := true }).pins.teardown = true) := by decide

/-- The boot script, `rst` held for one edge and for two, the link opened and left closed. -/
theorem witness_BootSequenceSendsSoftReset : ∀ (hold : Fin 2) (link : Bool),
    ∃ resets released opened offer, bootSequence hold link = (resets ++ released ++ opened) ++ offer :: [] ∧
      Boots link resets released opened ∧ offersReset link offer ∧
      legalConfig (State.resetWith standardConfig (bootSequence hold link) 0).cfg = true := fun hold link =>
  ⟨List.replicate (hold + 1) { quietPins with rst := true, linkUp := false }, [{ quietPins with linkUp := false }],
   [{ quietPins with linkUp := link }], { quietPins with linkUp := link, evtValid := true, evtData := 0xFF00000000 },
   by simp [bootSequence], by revert hold link; decide, by revert link; decide,
   by rw [show (State.resetWith standardConfig _ 0).cfg = standardConfig from rfl]; decide⟩

/-- One configuration for each way to be illegal, at the boundary of its range. -/
theorem witness_IllegalConfigurationIsRefused :
    (withConfig { standardConfig with scrollSens := 0 }).cfg.scrollSens.toNat < 1 ∧
    0x7E < (withConfig { standardConfig with scrollSens := 0x7F }).cfg.scrollSens.toNat ∧
    (withConfig { standardConfig with tReply := 0 }).cfg.tReply = 0 ∧
    keymap (withConfig { standardConfig with keymapLeft := [] }).cfg 65 false ≠ some 0x04 ∧
    modmap (withConfig { standardConfig with modmap := [(17, .ctrl), (65, .gui)] }).cfg 65 ≠ none ∧
    modmap (withConfig { standardConfig with modmap := [] }).cfg 17 ≠ some .ctrl ∧
    keymap (withConfig { standardConfig with keymapRight := [⟨7, 7, 0⟩] }).cfg 7 true = some 0x00 := by decide

theorem witness_LegalConfigurationNeverStops :
    legalConfig (fresh quietPins).cfg = true ∧ legalConfig { standardConfig with scrollSens := 0x7E, tReply := 1 } = true := by
  decide

theorem witness_MalformedWordCompletesInvalidOpcode :
    Running (fresh (offer 0x0600000000 true)) ∧ (fresh (offer 0x0600000000 true)).ctl.fsm = .idle ∧
    (fresh (offer 0x0600000000 true)).pins.evtValid = true ∧
    ∀ row ∈ eventRows, (fresh (offer 0x0600000000 true)).pins.evtData &&& row.1 ≠ row.2 :=
  ⟨running_of rfl rfl, rfl, rfl, by
    rw [show (fresh (offer 0x0600000000 true)).pins.evtData = 0x0600000000 from rfl]
    simp [eventRows]⟩

/-- Both modifier statements: a bit that is clear and a bit that is set, the lowest and the highest. -/
theorem witness_modifier_keys :
    (modmap (fresh quietPins).cfg 17 = some .ctrl ∧
      (fresh quietPins).dev.kbd.kbdMod.getLsbD (modifierIndex .ctrl + if false then 4 else 0) = false) ∧
    (modmap (idle (device 0x80 noKeys 0 0 0 false) quietPins).cfg 92 = some .gui ∧
      (idle (device 0x80 noKeys 0 0 0 false) quietPins).dev.kbd.kbdMod.getLsbD
        (modifierIndex .gui + if true then 4 else 0) = true) := by decide

/-- KEYDOWN of a key: no mapping; held; all slots full; the first empty slot the first of all and the last of all. -/
theorem witness_KeydownOfKeyFillsFirstEmptySlot :
    (modmap standardConfig 0 = none ∧ keymap standardConfig 0 false = none) ∧
    (modmap standardConfig 65 = none ∧ keymap standardConfig 65 false = some 0x04 ∧
      ∃ i : Fin 6, (device 0 #v[0, 0, 0, 0, 0, 4] 0 0 0 false).kbd.kbdSlot[i] = 0x04) ∧
    (∀ i : Fin 6, (device 0 #v[5, 6, 7, 8, 9, 10] 0 0 0 false).kbd.kbdSlot[i] ≠ 0x04 ∧
      (device 0 #v[5, 6, 7, 8, 9, 10] 0 0 0 false).kbd.kbdSlot[i] ≠ 0x00) ∧
    (noKeys[(0 : Fin 6)] = 0x00 ∧ ∀ j : Fin 6, j < 0 → noKeys[j] ≠ 0x00) ∧
    ((#v[5, 6, 7, 8, 9, 0] : Slots)[(5 : Fin 6)] = 0x00 ∧ ∀ j : Fin 6, j < 5 → (#v[5, 6, 7, 8, 9, 0] : Slots)[j] ≠ 0x00) := by
  decide

/-- KEYUP of a key: no mapping; not held; held in the first and in the last slot. -/
theorem witness_KeyupOfKeyEmptiesItsSlot :
    (modmap standardConfig 255 = none ∧ keymap standardConfig 255 false = none) ∧
    (modmap standardConfig 65 = none ∧ keymap standardConfig 65 false = some 0x04 ∧ ∀ i : Fin 6, noKeys[i] ≠ 0x04) ∧
    ((#v[4, 0, 0, 0, 0, 0] : Slots)[(0 : Fin 6)] = 0x04 ∧ ∀ j : Fin 6, j < 0 → (#v[4, 0, 0, 0, 0, 0] : Slots)[j] ≠ 0x04) ∧
    ((#v[0, 0, 0, 0, 0, 4] : Slots)[(5 : Fin 6)] = 0x04 ∧ ∀ j : Fin 6, j < 5 → (#v[0, 0, 0, 0, 0, 4] : Slots)[j] ≠ 0x04) := by
  decide

/-- A key that is not held, and a key that is. -/
theorem witness_KeydownThenKeyupRestoresKeyboard :
    (∃ s s1 s2 : State, exec (.keydown 65 true) s = .next s1 ∧ s1.ctl.cmplCmd = 0x02 ∧ s2.cfg = s.cfg ∧ s2.dev = s1.dev) ∧
    ∃ s s1 s2 : State, exec (.keydown 65 true) s = .next s1 ∧ legalConfig s.cfg = true ∧ s1.ctl.cmplStatus = .ok ∧
      s1.ctl.cmplCmd = 0x00 ∧ s2.cfg = s.cfg ∧ s2.dev = s1.dev :=
  ⟨⟨fresh quietPins, _, commit (fresh quietPins) (keydown standardConfig State.reset.dev 65 true), rfl, by decide, rfl, rfl⟩,
   ⟨idle (device 0 #v[0, 0, 0, 0, 0, 4] 0 0 0 false) quietPins, _, idle (device 0 #v[0, 0, 0, 0, 0, 4] 0 0 0 false) quietPins,
    rfl, by decide, by decide, by decide, rfl, by decide⟩⟩

/-- A change, and a key that changes nothing. -/
theorem witness_KeyboardReportExactlyOnChange :
    (∃ t, legalConfig (fresh quietPins).cfg = true ∧ exec (.keydown 65 false) (fresh quietPins) = .next t) ∧
    ∃ t, exec (.keyup 65 false) (fresh quietPins) = .next t ∧ t.dev.kbd = (fresh quietPins).dev.kbd :=
  ⟨⟨_, by decide, rfl⟩, _, rfl, by decide⟩

/-- The guard on with an outside move, on with an inside one, and off. -/
theorem witness_guarded_moves :
    (fresh quietPins).cfg.oobGuard = true ∧ (withConfig { standardConfig with oobGuard := false }).cfg.oobGuard = false := by
  decide

theorem witness_OnlyDeltaBytesAreRemapped : (fresh quietPins).pins.linkUp = true ∧
    (∃ t, exec (.mover 0x80 0x7F false) (fresh quietPins) = .next t) ∧
    (∃ t, (0x80 : Byte) ≠ 0 ∧ (fresh quietPins).dev.oob = false ∧ exec (.scroll 0x80) (fresh quietPins) = .next t) ∧
    ∃ t, exec (.movea 4095 256 false) (fresh quietPins) = .next t :=
  ⟨rfl, ⟨_, rfl⟩, ⟨_, by decide, rfl, rfl⟩, _, rfl⟩

/-- The button indices at the ends of their ranges, and the guard in both positions. -/
theorem witness_button_events :
    (0 : Byte).toNat < 1 ∧ 3 < (4 : Byte).toNat ∧ 1 ≤ (1 : Byte).toNat ∧ (3 : Byte).toNat ≤ 3 ∧ (0 : Byte).toNat ≤ 3 ∧
    (idle (device 0 noKeys 0 0 0 true) quietPins).cfg.oobGuard = true ∧
    (idle (device 0 noKeys 0 0 0 true) quietPins).dev.oob = true ∧ (fresh quietPins).dev.oob = false := by decide

/-- The tilts at the ends of each sign's range. -/
theorem witness_ScrollSendsWheelByte : (0 : Byte).toInt = 0 ∧ (0x80 : Byte).toInt < 0 ∧ (0xFF : Byte).toInt < 0 ∧
    0 < (0x01 : Byte).toInt ∧ 0 < (0x7F : Byte).toInt ∧ (fresh quietPins).dev.oob = false ∧
    (idle (device 0 noKeys 0 0 0 true) quietPins).dev.oob = true := by decide

theorem witness_WheelByteTellsTheDirection : ∃ s t u, legalConfig s.cfg = true ∧ s.cfg.scrollSens = 0x7E ∧
    s.pins.linkUp = true ∧ s.dev.oob = false ∧ exec (.scroll 0xFF) s = .next t ∧ exec (.scroll 0x7F) s = .next u :=
  ⟨withConfig { standardConfig with scrollSens := 0x7E }, _, _, by decide, rfl, rfl, rfl, rfl, rfl⟩

/-- One state for each clause, the guard active in the middle ones and the link closed in the last two, a re-entering
move the last. -/
theorem witness_MouseChecksRunInOrder :
    (∃ t, exec (.btndown 4) (fresh quietPins) = .next t) ∧ (∃ t, exec (.btnup 0xFF) (fresh quietPins) = .next t) ∧
    (∃ t, exec (.btndown 0) (fresh quietPins) = .next t) ∧
    (∃ s t u v w, s.cfg.oobGuard = true ∧ s.dev.oob = true ∧ exec (.scroll 0) s = .next t ∧ exec (.btnup 0) s = .next u ∧
      exec (.btndown 3) s = .next v ∧ exec (.movea 0 0 true) s = .next w) ∧
    (∃ t, (fresh quietPins).dev.oob = false ∧ exec (.scroll 0) (fresh quietPins) = .next t) ∧
    (∃ t, (fresh (offer 0 false)).pins.linkUp = false ∧ exec (.btndown 1) (fresh (offer 0 false)) = .next t) ∧
    ∃ s t, s.cfg.oobGuard = true ∧ s.dev.oob = true ∧ s.pins.linkUp = false ∧ exec (.mover 0 0 false) s = .next t :=
  ⟨⟨_, rfl⟩, ⟨_, rfl⟩, ⟨_, rfl⟩,
   ⟨idle (device 0 noKeys 0 0 0 true) quietPins, _, _, _, _, rfl, rfl, rfl, rfl, rfl, rfl⟩, ⟨_, rfl, rfl⟩, ⟨_, rfl, rfl⟩,
   ⟨idle (device 0 noKeys 0 0 0 true) (offer 0 false), _, rfl, rfl, rfl, rfl⟩⟩

theorem witness_OnlyGuardedMouseEventsAreSuppressed : ∃ t, isEvent (.btnup 0) = true ∧
    exec (.btnup 0) (idle (device 0 noKeys 0 0 0 true) quietPins) = .next t ∧ t.ctl.cmplStatus = .suppressed :=
  ⟨_, rfl, rfl, by decide⟩

theorem witness_PacketCalledForIsLoaded : (fresh quietPins).ctl.fsm = .idle ∧ (fresh quietPins).pins.linkUp = true ∧
    (fresh (offer 0 false)).pins.linkUp = false := by decide

theorem witness_BuiltPacketsAreWellFormed : DeviceInv standardConfig (device 0xFF #v[4, 0, 6, 7, 8, 9] 7 4095 0 true) := by
  decide

/-- The sink not ready; ready at an inner byte; ready at the checksum byte. -/
theorem witness_PacketByteIsSentInTx :
    isPacket (.pktRst 0x11) = true ∧ (sending rstPacket 4).ctl.fsm = .tx ∧ (sending rstPacket 4).pins.txReady = true ∧
    (sending rstPacket 4).framer.txIdx + 1 ≠ (sending rstPacket 4).framer.pktLen ∧
    (sending rstPacket 5).framer.txIdx + 1 = (sending rstPacket 5).framer.pktLen ∧
    ((sending rstPacket 4).withPins { quietPins with txReady := false }).pins.txReady = false := by decide

/-- A sink that stalls once: the six bytes go out in seven edges, and the first six edges send five. -/
theorem witness_PacketGoesOutByteByByte :
    let ps := List.replicate 3 quietPins ++ [{ quietPins with txReady := false }] ++ List.replicate 2 quietPins
    let s : State := { sending rstPacket 0 with inputs := ps ++ [quietPins] }
    legalConfig s.cfg = true ∧ s.ctl.fsm = .tx ∧ s.framer.txIdx = 0 ∧ s.framer.pktLen.toNat ≤ 14 ∧
    s.inputs = (ps ++ [quietPins]) ++ [] ∧ (∀ p ∈ ps ++ [quietPins], p.rst = false ∧ p.teardown = false) ∧
    ps.countP (·.txReady) < s.framer.pktLen.toNat ∧ quietPins.txReady = true ∧
    ps.countP (·.txReady) + 1 = s.framer.pktLen.toNat := by decide

/-- A bad checksum, the success code, the error code, and another code at the last and at an earlier edge. -/
theorem witness_ReplyResolvesTheWait :
    (waiting 1 []).ctl.fsm = .wait ∧ (0x82 : Byte).toNat = 0x80 + (0x02 : BitVec 6).toNat ∧
    (0xC2 : Byte).toNat = 0xC0 + (0x02 : BitVec 6).toNat ∧ (0x85 : Byte).toNat = 0x80 + (0x05 : BitVec 6).toNat ∧
    (0x00 : Byte) ≠ additive [0x57, 0xAB, 0x00, 0x82, 0x00, 0x00] ∧
    (0x84 : Byte) = additive [0x57, 0xAB, 0x00, 0x82, 0x00, 0x00] ∧ (0x82 : Byte) = (waiting 1 []).ctl.pendCmd ||| 0x80 ∧
    (0xC4 : Byte) = additive [0x57, 0xAB, 0x00, 0xC2, 0x00, 0x00] ∧ (0xC2 : Byte) = (waiting 1 []).ctl.pendCmd ||| 0xC0 ∧
    (0x87 : Byte) = additive [0x57, 0xAB, 0x00, 0x85, 0x00, 0x00] ∧ (0x85 : Byte) ≠ (waiting 1 []).ctl.pendCmd ||| 0x80 ∧
    (0x85 : Byte) ≠ (waiting 1 []).ctl.pendCmd ||| 0xC0 ∧ (waiting 1 []).ctl.pendTimer = 1 ∧
    1 < (waiting 2 []).ctl.pendTimer := by decide

theorem witness_FrameOutsideWaitIsThrownAway : ∃ t u, (fresh quietPins).ctl.fsm ≠ .wait ∧
    step (State.reset.withPins quietPins) = .next t ∧
    step (({ State.reset with rx := { rxSt := .sum, rxCmd := 0x82, rxLen := 0, rxCnt := 0, rxSum := 0x84 } } : State).withPins
      { quietPins with rxValid := true, rxData := 0x84 }) = .next u :=
  ⟨_, _, by decide, rfl, rfl⟩

/-- A block in WAIT at the checksum byte of a frame with this code. -/
theorem witness_FrameInWaitIsJudged :
    (Running (awaiting 0x02 1 0x82 0x00) ∧ (awaiting 0x02 1 0x82 0x00).ctl.fsm = .wait ∧
      (awaiting 0x02 1 0x82 0x00).pins.rxValid = true ∧ (awaiting 0x02 1 0x82 0x00).rx.rxSt = .sum ∧
      (awaiting 0x02 1 0x82 0x00).pins.rxData ≠ (awaiting 0x02 1 0x82 0x00).rx.rxSum) ∧
    (∀ code ∈ [0x82, 0xC2, 0x85], Running (awaiting 0x02 2 code (code + 2)) ∧
      (awaiting 0x02 2 code (code + 2)).pins.rxData = (awaiting 0x02 2 code (code + 2)).rx.rxSum ∧
      1 < (awaiting 0x02 2 code (code + 2)).ctl.pendTimer) ∧
    (awaiting 0x02 2 0x82 0x84).rx.rxCmd = (awaiting 0x02 2 0x82 0x84).ctl.pendCmd ||| 0x80 ∧
    (awaiting 0x02 2 0xC2 0xC4).rx.rxCmd = (awaiting 0x02 2 0xC2 0xC4).ctl.pendCmd ||| 0xC0 ∧
    (awaiting 0x02 2 0x85 0x87).rx.rxCmd ≠ (awaiting 0x02 2 0x85 0x87).ctl.pendCmd ||| 0x80 ∧
    (awaiting 0x02 2 0x85 0x87).rx.rxCmd ≠ (awaiting 0x02 2 0x85 0x87).ctl.pendCmd ||| 0xC0 := by
  refine ⟨⟨running_of rfl rfl, by decide⟩, ?_, by decide⟩
  intro code h
  refine ⟨running_of rfl rfl, ?_, by simp [awaiting]⟩
  revert code
  decide

/-- No byte, a byte inside a frame, a frame of another command; the last edge and the one before. -/
theorem witness_WaitCountsDownToTimeout :
    (Running (waiting 1 [quietPins]) ∧ (waiting 1 [quietPins]).ctl.fsm = .wait ∧
      (waiting 1 [quietPins]).pins.rxValid = false ∧ (waiting 1 [quietPins]).ctl.pendTimer = 1) ∧
    (Running (waiting 2 [rxByte 0x57]) ∧ (waiting 2 [rxByte 0x57]).rx.rxSt ≠ .sum ∧
      1 < (waiting 2 [rxByte 0x57]).ctl.pendTimer) ∧
    (Running (awaiting 0x02 2 0x85 0x87) ∧
      (awaiting 0x02 2 0x85 0x87).pins.rxData = (awaiting 0x02 2 0x85 0x87).rx.rxSum) :=
  ⟨⟨running_of rfl rfl, by decide⟩, ⟨running_of rfl rfl, by decide⟩, running_of rfl rfl, by decide⟩

theorem witness_SilentChipEndsInReplyTimeout :
    legalConfig (waiting 3 (List.replicate 3 quietPins)).cfg = true ∧
    (waiting 3 (List.replicate 3 quietPins)).ctl.fsm = .wait ∧ 1 ≤ (waiting 3 (List.replicate 3 quietPins)).ctl.pendTimer ∧
    (List.replicate 3 quietPins).length = (waiting 3 (List.replicate 3 quietPins)).ctl.pendTimer ∧
    (waiting 3 (List.replicate 3 quietPins)).inputs = List.replicate 3 quietPins ++ [] ∧
    ∀ p ∈ List.replicate 3 quietPins, (p.rst = false ∧ p.teardown = false) ∧ p.rxValid = false := by decide

/-- A chip that sends bytes, too few for a frame. -/
theorem witness_WaitEndsWithinItsTimer :
    legalConfig (waiting 2 [rxByte 0x57, rxByte 0xAB]).cfg = true ∧ (waiting 2 [rxByte 0x57, rxByte 0xAB]).ctl.fsm = .wait ∧
    1 ≤ (waiting 2 [rxByte 0x57, rxByte 0xAB]).ctl.pendTimer ∧
    [rxByte 0x57, rxByte 0xAB].length = (waiting 2 [rxByte 0x57, rxByte 0xAB]).ctl.pendTimer ∧
    (waiting 2 [rxByte 0x57, rxByte 0xAB]).inputs = [rxByte 0x57, rxByte 0xAB] ++ [] ∧
    ∀ p ∈ [rxByte 0x57, rxByte 0xAB], p.rst = false ∧ p.teardown = false := by decide

theorem witness_EventWithoutPacketTakesTwoEdges :
    ∃ s t, legalConfig s.cfg = true ∧ s.ctl.fsm = .idle ∧ s.inputs = offer 0x0500000000 true :: quietPins :: [] ∧
      NoReset (offer 0x0500000000 true) ∧ NoReset quietPins ∧ (offer 0x0500000000 true).evtValid = true ∧
      decodeEvent (offer 0x0500000000 true).evtData = .ok (.scroll 0) ∧ exec (.scroll 0) s = .next t ∧ t.ctl.fsm ≠ .tx :=
  ⟨State.resetWith standardConfig [offer 0x0500000000 true, quietPins] 0, _, by decide, rfl, rfl, ⟨rfl, rfl⟩, ⟨rfl, rfl⟩,
    rfl, by decide, rfl, by decide⟩

theorem witness_PacketEventWithSilentChipTimesOut :
    ∃ s t, legalConfig s.cfg = true ∧ s.ctl.fsm = .idle ∧
      s.inputs = offer 0xFF00000000 true :: (List.replicate 23 quietPins ++ []) ∧ NoReset (offer 0xFF00000000 true) ∧
      (offer 0xFF00000000 true).rxValid = false ∧ (offer 0xFF00000000 true).evtValid = true ∧
      decodeEvent (offer 0xFF00000000 true).evtData = .ok .reset ∧ exec .reset s = .next t ∧ t.ctl.fsm = .tx ∧
      (List.replicate 23 quietPins).length = t.framer.pktLen.toNat + s.cfg.tReply + 1 ∧
      ∀ q ∈ List.replicate 23 quietPins, NoReset q ∧ q.rxValid = false ∧ q.txReady = true :=
  ⟨State.resetWith standardConfig (offer 0xFF00000000 true :: List.replicate 23 quietPins) 0, _, by decide, rfl, rfl,
    ⟨rfl, rfl⟩, rfl, rfl, by decide, rfl, by decide, by decide,
    fun q h => by rw [List.eq_of_mem_replicate h]; exact ⟨⟨rfl, rfl⟩, rfl, rfl⟩⟩

/-- A parser in each of its states, with a byte to take. -/
theorem witness_ParserTakesEveryValidByte : ∀ st ∈ [RxState.h0, .h1, .h2, .cmd, .len, .data, .sum], ∀ b ∈ [0x00, 0x57, 0xAB],
    ∃ t, (({ State.reset with rx := { State.reset.rx with rxSt := st } } : State).withPins (rxByte b)).pins.rxValid = true ∧
      step (({ State.reset with rx := { State.reset.rx with rxSt := st } } : State).withPins (rxByte b)) = .next t :=
  fun _ _ _ _ => ⟨_, rfl, rfl⟩

theorem witness_ParserResynchronisesOnAHeader : (⟨.h2, 0, 0, 0, 0xFF⟩ : RxRegs).rxSt ∈ [RxState.h0, .h1, .h2] := by decide

/-- A frame of no payload and one of 255 payload bytes. -/
theorem witness_ParserReadsEveryReplyFrame : State.reset.rx.rxSt = .h0 ∧ ([] : List Byte).length = (0x00 : Byte).toNat ∧
    (List.replicate 255 (0xFF : Byte)).length = (0xFF : Byte).toNat ∧
    decodeReply ([0x57, 0xAB, 0x00, 0x82, 0x00] ++ [] ++ [0x84]) = .ok (.replyOk 0x02 0 0 0x84, []) :=
  ⟨rfl, rfl, List.length_replicate, by decide⟩

/-- A step from a state with the invariant. -/
theorem witness_EveryStepKeepsTheInvariant : ∃ t, (fresh (offer 0x0000000041 true)).Inv ∧
    step (fresh (offer 0x0000000041 true)) = .next t ∧ t.ctl.fsm = .tx :=
  ⟨_, ⟨by decide, by intro h; exact absurd h (by decide), by intro h; exact absurd h (by decide), by decide, by decide⟩, rfl,
    by decide⟩

/-- After a key is pressed, a slot holds a usage. -/
theorem witness_NoUsageInTwoSlots : ∃ t, runEdges 1 (State.resetWith standardConfig [offer 0x0000000041 true] 0) = .next t ∧
    t.dev.kbd.kbdSlot[(0 : Fin 6)] ≠ 0x00 ∧ (0 : Fin 6) ≠ 1 :=
  ⟨_, rfl, by decide, by decide⟩

theorem witness_ConfigurationNeverChanges : ∃ t, step (fresh quietPins) = .next t := ⟨_, rfl⟩

/-- A step that no run takes: the status InvalidModifier kept. -/
theorem witness_InvalidModifierIsNeverProduced : ∃ s t, step s = .next t ∧ t.ctl.cmplStatus = .invalidModifier :=
  ⟨{ fresh quietPins with ctl := { State.reset.ctl with cmplStatus := .invalidModifier } }, _, rfl, rfl⟩

theorem witness_DeviceChangesOnlyByEventOrReset :
    (∃ s t, step s = .next t ∧ t.dev ≠ s.dev ∧ s.pins.rst = true) ∧
    ∃ t, step (fresh (offer 0x0000000041 true)) = .next t ∧ t.dev ≠ (fresh (offer 0x0000000041 true)).dev :=
  ⟨⟨idle (device 1 noKeys 0 0 0 false) { quietPins with rst := true }, _, rfl, by decide, rfl⟩, _, rfl, by decide⟩

/-- An event with a packet and one without. -/
theorem witness_ClosedLinkKeepsTheStateChange :
    isEvent (.btndown 1) = true ∧ (∃ t, exec (.btndown 1) (fresh quietPins) = .next t ∧ t.ctl.fsm = .tx) ∧
    ∃ t, exec (.btndown 4) (fresh quietPins) = .next t ∧ t.ctl.fsm ≠ .tx :=
  ⟨rfl, ⟨_, rfl, by decide⟩, _, rfl, by decide⟩

/-- Each of the eight events completes somewhere, in TX and in DONE. -/
theorem witness_EventsLeaveTheRestUnchanged :
    ∀ i ∈ [Instr.keydown 65 false, .keyup 65 true, .movea 1 2 false, .mover 1 2 true, .btndown 1, .btnup 0, .scroll 0, .reset],
      isEvent i = true ∧ ∃ t, exec i (fresh quietPins) = .next t ∧ (t.ctl.fsm = .tx ∨ t.ctl.fsm = .done) := by
  intro i h
  simp only [List.mem_cons, List.not_mem_nil, or_false] at h
  rcases h with rfl | rfl | rfl | rfl | rfl | rfl | rfl | rfl <;> exact ⟨rfl, _, rfl, by decide⟩

/-- A packet in TX, and a reply frame. -/
theorem witness_PacketsAndRepliesLeaveTheDeviceUnchanged :
    isEvent (.pktRst 0x11) = false ∧ isPacket (.pktRst 0x11) = true ∧ (sending rstPacket 0).ctl.fsm = .tx ∧
    (∃ t, exec (.pktRst 0x11) (sending rstPacket 0) = .next t) ∧ isEvent (.replyErr 0x02 0 0 0xC4) = false ∧
    isPacket (.replyErr 0x02 0 0 0xC4) = false ∧ ∃ t, exec (.replyErr 0x02 0 0 0xC4) (waiting 1 []) = .next t :=
  ⟨rfl, rfl, rfl, ⟨_, rfl⟩, rfl, rfl, _, rfl⟩

theorem witness_EventPortIgnoredOutsideIdle : reporting.ctl.fsm ≠ .idle ∧ (waiting 1 []).ctl.fsm ≠ .idle := by decide

/-- A body that passes, a changed byte of it, and a reordering. -/
theorem witness_ChecksumDetectsOneChangedByte :
    passesChecksum ([0x57, 0xAB, 0x00, 0x0F, 0x00] ++ [0x11]) = true ∧ 0 < [0x57, 0xAB, 0x00, 0x0F, 0x00].length ∧
    ([0x57, 0xAB, 0x00, 0x0F, 0x00] : List Byte)[0] ≠ 0x58 ∧
    additive [0x0F, 0x57, 0xAB, 0x00, 0x00] = additive [0x57, 0xAB, 0x00, 0x0F, 0x00] := by decide

theorem witness_OutputsAreFunctionsOfRegisters :
    (sending rstPacket 5).ctl.fsm = .tx ∧ (sending rstPacket 5).framer.txIdx.toNat = (5 : Fin 14) ∧
    (fresh quietPins).ctl.fsm ≠ .tx ∧ (fresh quietPins).pins.rst = false ∧ (fresh quietPins).pins.teardown = false := by decide

/-- An ended run whose event is turned away by the link, and the run on no event. -/
theorem witness_EndedRunCarriedItsPackets :
    (∃ s ps t, legalConfig s.cfg = true ∧ s.ctl.fsm = .idle ∧ s.inputs = ps ++ [] ∧ (∀ p ∈ ps, NoReset p) ∧
      runEnded [0x0300000001] ps.length s = true ∧ runEdges ps.length s = .next t) ∧
    ∃ s t, legalConfig s.cfg = true ∧ s.ctl.fsm = .idle ∧ runEnded [] 0 s = true ∧ runEdges 0 s = .next t :=
  ⟨⟨script [offer 0x0300000001 false, quietPins], [offer 0x0300000001 false, quietPins], _, by decide, rfl, rfl,
    by simp [NoReset, offer, quietPins], by decide, rfl⟩, fresh quietPins, _, by decide, rfl, by decide, rfl⟩

end Sys2Proof.Tests
end

section
/-! The event word's reserved bits and the pseudo-instructions (30_encoding.md): a word that the decoder accepts matches
a row of the event table, so a word that matches none completes InvalidOpcode (R55, R88); and R65's expansions. -/

namespace Sys2Proof.Proofs.Encoding

open Sys2Proof Sys2Proof.Machine

/-- A value in the field of an event word whose lowest bit is bit `lo`, the word's other bits 0. -/
def inField {n : Nat} (lo : Nat) (v : BitVec n) : EventWord := v.setWidth 40 <<< lo

/-- Masking a word with one field keeps that field's value. -/
theorem and_inField_allOnes (w : EventWord) (lo n : Nat) :
    w &&& inField lo (BitVec.allOnes n) = inField lo (w.extractLsb' lo n) := by
  apply BitVec.eq_of_getLsbD_eq
  intro i hi
  by_cases hlo : i < lo
  · simp [inField, hlo]
  · have hbit : lo + (i - lo) = i := by omega
    simp [inField, hi, hlo, hbit, Bool.and_comm]

/-- A field of one bit is that bit. -/
theorem extractLsb'_one (w : EventWord) (i : Nat) : w.extractLsb' i 1 = BitVec.ofBool (w.getLsbD i) := by
  apply BitVec.eq_of_getLsbD_eq
  intro k hk
  obtain rfl : k = 0 := by omega
  simp

/-- A guarded answer that is no error has passed its guard. -/
theorem guard_passed {c : Prop} [Decidable c] {e : DecodeError} {rest : Except DecodeError Instr} {i : Instr}
    (h : (if c then .error e else rest) = .ok i) : ¬ c ∧ rest = .ok i := by
  split at h
  case isTrue => cases h
  case isFalse hc => exact ⟨hc, h⟩

/-- The fields of every word that the decoder accepts: an assigned opcode, and 0 in the reserved bits of its format
(R48 to R53, R56). -/
theorem decodeEvent_ok_fields {w : EventWord} {i : Instr} (h : decodeEvent w = .ok i) :
    ((w.extractLsb' 32 8 = 0x00 ∨ w.extractLsb' 32 8 = 0x01) ∧ w.extractLsb' 9 23 = 0) ∨
    (w.extractLsb' 32 8 = 0x02 ∧ w.extractLsb' 24 6 = 0 ∧ w.getLsbD 31 = false) ∨
    (w.extractLsb' 32 8 = 0x02 ∧ w.extractLsb' 24 6 = 0 ∧ w.getLsbD 31 = true ∧ w.extractLsb' 16 8 = 0) ∨
    ((w.extractLsb' 32 8 = 0x03 ∨ w.extractLsb' 32 8 = 0x04 ∨ w.extractLsb' 32 8 = 0x05) ∧ w.extractLsb' 8 24 = 0) ∨
    (w.extractLsb' 32 8 = 0xFF ∧ w.extractLsb' 0 32 = 0) := by
  unfold decodeEvent at h
  dsimp only at h
  split at h
  case isTrue hop => exact .inl ⟨.inl hop, not_ne_iff.1 (guard_passed h).1⟩
  split at h
  case isTrue hop => exact .inl ⟨.inr hop, not_ne_iff.1 (guard_passed h).1⟩
  split at h
  case isTrue hop =>
    obtain ⟨hrsv, h⟩ := guard_passed h
    split at h
    case isTrue habs => exact .inr (.inl ⟨hop, not_ne_iff.1 hrsv, habs⟩)
    case isFalse hrel =>
      exact .inr (.inr (.inl ⟨hop, not_ne_iff.1 hrsv, Bool.eq_true_of_not_eq_false hrel,
        not_ne_iff.1 (guard_passed h).1⟩))
  split at h
  case isTrue hop => exact .inr (.inr (.inr (.inl ⟨.inl hop, not_ne_iff.1 (guard_passed h).1⟩)))
  split at h
  case isTrue hop => exact .inr (.inr (.inr (.inl ⟨.inr (.inl hop), not_ne_iff.1 (guard_passed h).1⟩)))
  split at h
  case isTrue hop => exact .inr (.inr (.inr (.inl ⟨.inr (.inr hop), not_ne_iff.1 (guard_passed h).1⟩)))
  split at h
  case isTrue hop => exact .inr (.inr (.inr (.inr ⟨hop, not_ne_iff.1 (guard_passed h).1⟩)))
  case isFalse => cases h

/-- A word with this opcode and 0 in the field of `n` bits from bit `lo` on, under the mask of both. -/
theorem and_opcode_zeroField {w : EventWord} {op : Byte} {lo n : Nat} (hop : w.extractLsb' 32 8 = op)
    (hrsv : w.extractLsb' lo n = 0) :
    w &&& (inField 32 (BitVec.allOnes 8) ||| inField lo (BitVec.allOnes n)) = inField 32 op := by
  rw [BitVec.and_or_distrib_left, and_inField_allOnes, and_inField_allOnes, hop, hrsv]
  simp [inField]

/-- Every word that the decoder accepts matches a row of the event table (R55). -/
theorem decodeEvent_ok_matches_row {w : EventWord} {i : Instr} (h : decodeEvent w = .ok i) :
    ∃ row ∈ eventRows, w &&& row.1 = row.2 := by
  rcases decodeEvent_ok_fields h with ⟨hop | hop, hrsv⟩ | ⟨hop, hrsv, hmode⟩ | ⟨hop, hrsv, hmode, hmid⟩ |
    ⟨hop | hop | hop, hrsv⟩ | ⟨hop, hrsv⟩
  · exact ⟨(0xFFFFFFFE00, 0x0000000000), by decide, and_opcode_zeroField hop hrsv⟩
  · exact ⟨(0xFFFFFFFE00, 0x0100000000), by decide, and_opcode_zeroField hop hrsv⟩
  · refine ⟨(0xFFBF000000, 0x0200000000), by decide, ?_⟩
    have hbit : w &&& inField 31 (BitVec.allOnes 1) = 0 := by rw [and_inField_allOnes, extractLsb'_one, hmode]; rfl
    calc w &&& 0xFFBF000000
        = w &&& (inField 32 (BitVec.allOnes 8) ||| inField 24 (BitVec.allOnes 6) ||| inField 31 (BitVec.allOnes 1)) := rfl
      _ = 0x0200000000 := by rw [BitVec.and_or_distrib_left, and_opcode_zeroField hop hrsv, hbit]; rfl
  · refine ⟨(0xFFBFFF0000, 0x0280000000), by decide, ?_⟩
    have hbit : w &&& inField 31 (BitVec.allOnes 1) = 0x80000000 := by
      rw [and_inField_allOnes, extractLsb'_one, hmode]; rfl
    have hzero : w &&& inField 16 (BitVec.allOnes 8) = 0 := by rw [and_inField_allOnes, hmid]; rfl
    calc w &&& 0xFFBFFF0000
        = w &&& (inField 32 (BitVec.allOnes 8) ||| inField 24 (BitVec.allOnes 6) ||| inField 31 (BitVec.allOnes 1) |||
            inField 16 (BitVec.allOnes 8)) := rfl
      _ = 0x0280000000 := by
          rw [BitVec.and_or_distrib_left, BitVec.and_or_distrib_left, and_opcode_zeroField hop hrsv, hbit, hzero]; rfl
  · exact ⟨(0xFFFFFFFF00, 0x0300000000), by decide, and_opcode_zeroField hop hrsv⟩
  · exact ⟨(0xFFFFFFFF00, 0x0400000000), by decide, and_opcode_zeroField hop hrsv⟩
  · exact ⟨(0xFFFFFFFF00, 0x0500000000), by decide, and_opcode_zeroField hop hrsv⟩
  · exact ⟨(0xFFFFFFFFFF, 0xFF00000000), by decide, and_opcode_zeroField hop hrsv⟩

/-- A word that matches no row of the event table is rejected (R55). -/
theorem decodeEvent_error_of_no_row {w : EventWord} (h : ∀ row ∈ eventRows, w &&& row.1 ≠ row.2) :
    ∃ e, decodeEvent w = .error e := by
  cases hd : decodeEvent w with
  | error e => exact ⟨e, rfl⟩
  | ok i =>
    obtain ⟨row, hrow, hmatch⟩ := decodeEvent_ok_matches_row hd
    exact absurd hmatch (h row hrow)

/-- Settles O13: no row matches, so the decoder rejects the word, and an edge in IDLE that takes a rejected word commits
`malformed` (R88), which writes the completion record alone. -/
theorem malformedWordCompletesInvalidOpcode : Obligations.MalformedWordCompletesInvalidOpcode := by
  intro s hrun hidle hvalid hrows
  obtain ⟨e, he⟩ := decodeEvent_error_of_no_row hrows
  obtain ⟨r, hstep, ⟨i, hok, -⟩ | ⟨-, rfl⟩⟩ := step_idle hrun hidle hvalid
  · rw [he] at hok
    cases hok
  · exact hstep

/-- A number of `w` bits fits an operand of `w` bits and is that operand (R64). -/
theorem fitUnsigned_toNat {w : Nat} (k : BitVec w) : fitUnsigned w k.toNat = .ok k := by
  have hfits : (0 : Int) ≤ k.toNat ∧ (k.toNat : Int) < 2 ^ w := ⟨Int.natCast_nonneg _, by exact_mod_cast k.isLt⟩
  rw [fitUnsigned, if_pos hfits, BitVec.ofInt_natCast, BitVec.ofNat_toNat, BitVec.setWidth_eq]

/-- Settles O58: two expansions take no operand; the others put the operand, which fits a byte, into both
instructions (R65). -/
theorem pseudoInstructionsExpand : Obligations.PseudoInstructionsExpand := by
  refine ⟨rfl, rfl, fun k => ⟨?tap, ?tapRight, ?click⟩⟩
  case tap | tapRight | click =>
    rw [assemble, fitUnsigned_toNat]
    rfl

end Sys2Proof.Proofs.Encoding
end

section
/-! The key events (40_keyboard.md): the bit of a modifier mask, what KEYDOWN and KEYUP answer in each case, what
committing a result leaves, and from these R70, R71, R73 and the round trip of R76. -/

namespace Sys2Proof.Proofs.Keyboard

open Sys2Proof Sys2Proof.Machine

/-! ### What committing an event's result leaves -/

/-- The six slots in their order. -/
theorem toList_slots (slots : Slots) :
    slots.toList = [slots[0], slots[1], slots[2], slots[3], slots[4], slots[5]] := by
  apply List.ext_getElem (by simp)
  intro i hi _
  have hlt : i < 6 := by simpa using hi
  interval_cases i <;> rfl

/-- The snapshot of the keyboard state is the report of R94, its checksum the sum of the bytes before it. -/
theorem buildPacket_kbd (d : Device) : buildPacket d .kbd = kbdReport d.kbd.kbdMod d.kbd.kbdSlot := by
  simp [buildPacket, withChecksum, kbdBody, frameBody, kbdReport, closed, additive, checksum_eq, toList_slots, hdr, cmdKbd]

/-- Committing a rejected event writes the completion record alone (R116). -/
theorem commit_error (s : State) (st : Status) : commit s (.error st) = completedAs s.dev st 0x00 s := rfl

/-- Committing a no-op completes with OK and no command byte (R107). -/
theorem commit_noSend (s : State) (d : Device) : commit s (.noSend d) = completedAs d .ok 0x00 s := rfl

/-- Committing a result that calls for a packet sends that packet from the new device state (R99, R100, R107). -/
theorem commit_send (s : State) (d : Device) (p : PacketCall) :
    SentFrom d p.cmd (buildPacket d p) s (commit s (.send d p)) := by
  have hlen : (buildPacket d p).length ≤ 14 := by rw [buildPacket_length]; cases p <;> simp
  rcases sendPacket_cases p.cmd (buildPacket d p) { s with dev := d } with ⟨hup, h⟩ | ⟨hdown, h⟩
  · have hup' : s.pins.linkUp = true := hup
    refine ⟨fun _ => ?_, fun hl => by simp [hup'] at hl⟩
    rw [commit, h]
    exact ⟨loadPacket_pkt _ _ hlen, rfl⟩
  · have hdown' : s.pins.linkUp = false := hdown
    refine ⟨fun hl => by simp [hdown'] at hl, fun _ => ?_⟩
    rw [commit, h]
    rfl

/-- A key event that calls for a report: the report of R94 with command byte `0x02`. -/
theorem commit_send_kbd (s : State) (d : Device) :
    SentFrom d 0x02 (kbdReport d.kbd.kbdMod d.kbd.kbdSlot) s (commit s (.send d .kbd)) := by
  rw [← buildPacket_kbd]
  exact commit_send s d .kbd

/-- A result that calls for a packet leaves its device state and its command byte, whatever the link does (R99). -/
theorem commit_send_dev_cmplCmd (s : State) (d : Device) (p : PacketCall) :
    (commit s (.send d p)).dev = d ∧ (commit s (.send d p)).ctl.cmplCmd = p.cmd := by
  obtain ⟨-, hdev, -, -, -, -, -, hcmd⟩ := sendPacket_frame p.cmd (buildPacket d p) { s with dev := d }
  exact ⟨hdev, hcmd⟩

/-! ### The bit of a modifier mask (R15) -/

/-- A modifier's mask has bit `m + 4*r` and no other. -/
theorem getLsbD_modifierMask (m : Modifier) (r : Bool) {k : Nat} (hk : k < 8) :
    (modifierMask m r).getLsbD k = decide (k = modifierIndex m + if r then 4 else 0) := by
  rw [modifierMask, getLsbD_one_shiftLeft _ _ hk]
  cases r <;> rfl

/-- Or-ing in a modifier's mask sets its bit and keeps the others. -/
theorem getLsbD_or_modifierMask (mod : Byte) (m : Modifier) (r : Bool) {k : Nat} (hk : k < 8) :
    (mod ||| modifierMask m r).getLsbD k =
      (mod.getLsbD k || decide (k = modifierIndex m + if r then 4 else 0)) := by
  rw [BitVec.getLsbD_or, getLsbD_modifierMask m r hk]

/-- Masking a modifier's bit out clears it and keeps the others. -/
theorem getLsbD_and_not_modifierMask (mod : Byte) (m : Modifier) (r : Bool) {k : Nat} (hk : k < 8) :
    (mod &&& ~~~modifierMask m r).getLsbD k =
      (mod.getLsbD k && !decide (k = modifierIndex m + if r then 4 else 0)) := by
  rw [BitVec.getLsbD_and, BitVec.getLsbD_not, getLsbD_modifierMask m r hk, decide_eq_true hk, Bool.true_and]

/-- Setting a modifier's bit changes nothing exactly where it is set. -/
theorem or_modifierMask_eq_self_iff (mod : Byte) (m : Modifier) (r : Bool) :
    mod ||| modifierMask m r = mod ↔ mod.getLsbD (modifierIndex m + if r then 4 else 0) = true := by
  have hbit : modifierIndex m + (if r then 4 else 0) < 8 := by cases m <;> cases r <;> decide
  constructor
  · intro h
    rw [← h, getLsbD_or_modifierMask mod m r hbit, decide_eq_true rfl, Bool.or_true]
  · intro h
    apply BitVec.eq_of_getLsbD_eq
    intro k hk
    rw [getLsbD_or_modifierMask mod m r hk]
    by_cases hkb : k = modifierIndex m + if r then 4 else 0
    · rw [hkb, h, Bool.true_or]
    · rw [decide_eq_false hkb, Bool.or_false]

/-- Clearing a modifier's bit changes nothing exactly where it is clear. -/
theorem and_not_modifierMask_eq_self_iff (mod : Byte) (m : Modifier) (r : Bool) :
    mod &&& ~~~modifierMask m r = mod ↔ mod.getLsbD (modifierIndex m + if r then 4 else 0) = false := by
  have hbit : modifierIndex m + (if r then 4 else 0) < 8 := by cases m <;> cases r <;> decide
  constructor
  · intro h
    rw [← h, getLsbD_and_not_modifierMask mod m r hbit, decide_eq_true rfl, Bool.not_true, Bool.and_false]
  · intro h
    apply BitVec.eq_of_getLsbD_eq
    intro k hk
    rw [getLsbD_and_not_modifierMask mod m r hk]
    by_cases hkb : k = modifierIndex m + if r then 4 else 0
    · rw [hkb, h, Bool.false_and]
    · rw [decide_eq_false hkb, Bool.not_false, Bool.and_true]

/-- Clearing a bit that was just set gives the byte back where the bit was clear. -/
theorem or_and_not_modifierMask (mod : Byte) (m : Modifier) (r : Bool)
    (h : mod.getLsbD (modifierIndex m + if r then 4 else 0) = false) :
    (mod ||| modifierMask m r) &&& ~~~modifierMask m r = mod := by
  calc (mod ||| modifierMask m r) &&& ~~~modifierMask m r
      = mod &&& ~~~modifierMask m r := by
        apply BitVec.eq_of_getLsbD_eq
        intro k hk
        rw [getLsbD_and_not_modifierMask _ m r hk, getLsbD_and_not_modifierMask _ m r hk,
          getLsbD_or_modifierMask mod m r hk, Bool.and_or_distrib_right, Bool.and_not_self, Bool.or_false]
    _ = mod := (and_not_modifierMask_eq_self_iff mod m r).2 h

/-! ### Slots and usages -/

/-- A usage that some slot holds is found. -/
theorem findSlot_of_mem {slots : Slots} {v : Byte} (h : ∃ i : Fin 6, slots[i] = v) : ∃ j, findSlot slots v = some j := by
  obtain ⟨i, hi⟩ := h
  cases hf : findSlot slots v with
  | some j => exact ⟨j, rfl⟩
  | none => exact absurd hi (findSlot_none hf i)

/-- A new usage is found in the slot that it was put into. -/
theorem findSlot_setSlot_of_new {slots : Slots} {i : Fin 6} {v : Byte} (h : findSlot slots v = none) :
    findSlot (setSlot slots i v) v = some i := by
  apply findSlot_eq_some
  · rw [getElem_setSlot, if_pos rfl]
  · intro j hj
    rw [getElem_setSlot, if_neg hj.ne']
    exact findSlot_none h j

/-- A legal configuration maps no keycode to the empty slot's value (R5). -/
theorem keymap_ne_zero {c : Config} (h : legalConfig c = true) (kc : Byte) (r : Bool) : keymap c kc r ≠ some 0x00 := by
  simp only [legalConfig, Bool.and_eq_true] at h
  obtain ⟨⟨⟨⟨⟨-, hleft⟩, hright⟩, -⟩, -⟩, -⟩ := h
  cases r
  · exact (tableLegal_iff _).1 hleft kc
  · exact (tableLegal_iff _).1 hright kc

/-! ### What KEYDOWN and KEYUP answer in each case -/

section Cases
variable {c : Config} {d : Device} {kc u : Byte} {r : Bool} {m : Modifier} {i : Fin 6}

/-- KEYDOWN of a modifier whose bit is set (R70). -/
theorem keydown_modifier_set (hm : modmap c kc = some m)
    (h : d.kbd.kbdMod.getLsbD (modifierIndex m + if r then 4 else 0) = true) : keydown c d kc r = .noSend d := by
  simp only [keydown, hm, if_pos ((or_modifierMask_eq_self_iff _ m r).2 h)]

/-- KEYDOWN of a modifier whose bit is clear (R70). -/
theorem keydown_modifier_clear (hm : modmap c kc = some m)
    (h : d.kbd.kbdMod.getLsbD (modifierIndex m + if r then 4 else 0) = false) :
    keydown c d kc r = .send { d with kbd := { d.kbd with kbdMod := d.kbd.kbdMod ||| modifierMask m r } } .kbd := by
  have hne : d.kbd.kbdMod ||| modifierMask m r ≠ d.kbd.kbdMod := by
    rw [ne_eq, or_modifierMask_eq_self_iff, h]
    nofun
  simp only [keydown, hm, if_neg hne]

/-- KEYUP of a modifier whose bit is clear (R73). -/
theorem keyup_modifier_clear (hm : modmap c kc = some m)
    (h : d.kbd.kbdMod.getLsbD (modifierIndex m + if r then 4 else 0) = false) : keyup c d kc r = .noSend d := by
  simp only [keyup, hm, if_pos ((and_not_modifierMask_eq_self_iff _ m r).2 h)]

/-- KEYUP of a modifier whose bit is set (R73). -/
theorem keyup_modifier_set (hm : modmap c kc = some m)
    (h : d.kbd.kbdMod.getLsbD (modifierIndex m + if r then 4 else 0) = true) :
    keyup c d kc r = .send { d with kbd := { d.kbd with kbdMod := d.kbd.kbdMod &&& ~~~modifierMask m r } } .kbd := by
  have hne : d.kbd.kbdMod &&& ~~~modifierMask m r ≠ d.kbd.kbdMod := by
    rw [ne_eq, and_not_modifierMask_eq_self_iff, h]
    nofun
  simp only [keyup, hm, if_neg hne]

/-- KEYDOWN of a keycode without a mapping (R71). -/
theorem keydown_unmapped (hm : modmap c kc = none) (hk : keymap c kc r = none) :
    keydown c d kc r = .error .unsupportedKey := by
  simp only [keydown, hm, hk]

/-- KEYDOWN of a held key (R71). -/
theorem keydown_held (hm : modmap c kc = none) (hk : keymap c kc r = some u)
    (h : findSlot d.kbd.kbdSlot u = some i) : keydown c d kc r = .noSend d := by
  simp only [keydown, hm, hk, h]

/-- KEYDOWN of a new key with an empty slot left (R71). -/
theorem keydown_insert (hm : modmap c kc = none) (hk : keymap c kc r = some u)
    (h : findSlot d.kbd.kbdSlot u = none) (h0 : findSlot d.kbd.kbdSlot 0x00 = some i) :
    keydown c d kc r = .send { d with kbd := d.kbd.withSlot i u } .kbd := by
  simp only [keydown, hm, hk, h, h0]

/-- KEYDOWN of a new key with all slots full (R71). -/
theorem keydown_exhausted (hm : modmap c kc = none) (hk : keymap c kc r = some u)
    (h : findSlot d.kbd.kbdSlot u = none) (h0 : findSlot d.kbd.kbdSlot 0x00 = none) :
    keydown c d kc r = .error .keyboardSlotsExhausted := by
  simp only [keydown, hm, hk, h, h0]

/-- KEYUP of a held key (R74). -/
theorem keyup_held (hm : modmap c kc = none) (hk : keymap c kc r = some u)
    (h : findSlot d.kbd.kbdSlot u = some i) :
    keyup c d kc r = .send { d with kbd := d.kbd.withSlot i 0x00 } .kbd := by
  simp only [keyup, hm, hk, h]

end Cases

/-! ### The round trip (R76) -/

/-- Every packet that KEYDOWN calls for is the keyboard report, and KEYUP from the device state that it leaves calls for
the report of the device state before it. -/
theorem keyup_of_keydown_send {c : Config} {d d1 : Device} {kc : Byte} {r : Bool} {p : PacketCall}
    (h : keydown c d kc r = .send d1 p) : keyup c d1 kc r = .send d .kbd := by
  rcases keydown_cases c d kc r with ⟨m, -, -, hd⟩ | ⟨m, hm, hclear, hd⟩ | ⟨-, -, hd⟩ | ⟨u, i, -, -, -, hd⟩ |
    ⟨u, i, hm, hk, hf, h0, hd⟩ | ⟨u, -, -, -, -, hd⟩ <;> rw [hd] at h <;> cases h
  case inr.inl =>
    rw [ne_eq, or_modifierMask_eq_self_iff, Bool.not_eq_true] at hclear
    rw [keyup_modifier_set hm ((or_modifierMask_eq_self_iff _ m r).1 (by rw [BitVec.or_assoc, BitVec.or_self]))]
    simp only [or_and_not_modifierMask _ m r hclear]
  case inr.inr.inr.inr.inl =>
    have hempty : d.kbd.kbdSlot[i] = 0x00 := (findSlot_some h0).1
    have hback : setSlot (setSlot d.kbd.kbdSlot i u) i 0x00 = d.kbd.kbdSlot := by
      rw [← hempty, setSlot_setSlot_self]
    rw [keyup_held hm hk (findSlot_setSlot_of_new hf)]
    simp only [Keyboard.withSlot, hback]

/-- Where KEYDOWN is a no-op, the key is held, and with a legal configuration KEYUP releases it: it changes the keyboard
state and calls for a report. -/
theorem keyup_of_keydown_noSend {c : Config} {d d1 : Device} {kc : Byte} {r : Bool} (hl : legalConfig c = true)
    (h : keydown c d kc r = .noSend d1) : ∃ d2, keyup c d kc r = .send d2 .kbd ∧ d2.kbd ≠ d.kbd := by
  rcases keydown_cases c d kc r with ⟨m, hm, hset, hd⟩ | ⟨m, -, -, hd⟩ | ⟨-, -, hd⟩ | ⟨u, i, hm, hk, hf, hd⟩ |
    ⟨u, i, -, -, -, -, hd⟩ | ⟨u, -, -, -, -, hd⟩ <;> rw [hd] at h <;> cases h
  case inl =>
    rw [or_modifierMask_eq_self_iff] at hset
    refine ⟨_, keyup_modifier_set hm hset, fun heq => ?_⟩
    have hclear := (and_not_modifierMask_eq_self_iff _ m r).1 (congrArg Keyboard.kbdMod heq)
    rw [hset] at hclear
    cases hclear
  case inr.inr.inr.inl =>
    refine ⟨_, keyup_held hm hk hf, fun heq => ?_⟩
    have hslot : (setSlot d.kbd.kbdSlot i 0x00)[i] = d.kbd.kbdSlot[i] := by
      rw [← withSlot_kbdSlot, show d.kbd.withSlot i 0x00 = d.kbd from heq]
    rw [getElem_setSlot, if_pos rfl, (findSlot_some hf).1] at hslot
    exact keymap_ne_zero hl kc r (hslot ▸ hk)

/-- A committed result with the keyboard report's command byte calls for the keyboard report. -/
theorem eq_send_kbd_of_cmplCmd {s : State} {e : EventResult} (h : (commit s e).ctl.cmplCmd = 0x02) :
    ∃ d, e = .send d .kbd := by
  cases e with
  | error st => cases h
  | noSend d => cases h
  | suppress d => cases h
  | send d p =>
    rw [(commit_send_dev_cmplCmd s d p).2] at h
    cases p with
    | kbd => exact ⟨d, rfl⟩
    | abs => cases h
    | rel dx dy w => cases h
    | rst => cases h

/-- A KEYDOWN that completes OK without a command byte is a no-op: a rejected one has another status, and one that calls
for a packet has a command byte. -/
theorem keydown_eq_noSend_of_ok {s : State} {kc : Byte} {r : Bool}
    (hst : (commit s (keydown s.cfg s.dev kc r)).ctl.cmplStatus = .ok)
    (hcmd : (commit s (keydown s.cfg s.dev kc r)).ctl.cmplCmd = 0x00) : keydown s.cfg s.dev kc r = .noSend s.dev := by
  rcases keydown_cases s.cfg s.dev kc r with ⟨m, -, -, hd⟩ | ⟨m, -, -, hd⟩ | ⟨-, -, hd⟩ | ⟨u, i, -, -, -, hd⟩ |
    ⟨u, i, -, -, -, -, hd⟩ | ⟨u, -, -, -, -, hd⟩
  · exact hd
  · rw [hd, (commit_send_dev_cmplCmd _ _ _).2] at hcmd
    cases hcmd
  · rw [hd] at hst
    cases hst
  · exact hd
  · rw [hd, (commit_send_dev_cmplCmd _ _ _).2] at hcmd
    cases hcmd
  · rw [hd] at hst
    cases hst

/-! ### The obligations -/

/-- The edge that takes a KEYDOWN word commits KEYDOWN's result (R69, R107). -/
theorem exec_keydown (kc : Byte) (r : Bool) (s : State) :
    exec (.keydown kc r) s = .next (commit s (keydown s.cfg s.dev kc r)) := rfl

/-- The edge that takes a KEYUP word commits KEYUP's result (R72, R107). -/
theorem exec_keyup (kc : Byte) (r : Bool) (s : State) :
    exec (.keyup kc r) s = .next (commit s (keyup s.cfg s.dev kc r)) := rfl

/-- Settles O14: the bit decides between the no-op and the report, and or-ing in the mask sets that bit alone. -/
theorem keydownOfModifierSetsItsBit : Obligations.KeydownOfModifierSetsItsBit := by
  intro s kc r m hm
  constructor
  · intro hset
    rw [exec_keydown, keydown_modifier_set hm hset, commit_noSend]
  · intro hclear
    rw [exec_keydown, keydown_modifier_clear hm hclear]
    exact ⟨_, _, rfl, fun k hk => getLsbD_or_modifierMask _ m r hk, commit_send_kbd s _⟩

/-- Settles O15: the four outcomes of R71 are the cases of the two slot searches, for the usage and for an empty slot. -/
theorem keydownOfKeyFillsFirstEmptySlot : Obligations.KeydownOfKeyFillsFirstEmptySlot := by
  intro s kc r hm
  rw [exec_keydown]
  refine ⟨fun hk => ?unmapped, fun u hk => ⟨fun hheld => ?held, fun hnew =>
    ⟨fun hfull => ?full, fun i hi hfirst => ?insert⟩⟩⟩
  case unmapped => rw [keydown_unmapped hm hk, commit_error]
  case held =>
    obtain ⟨j, hj⟩ := findSlot_of_mem hheld
    rw [keydown_held hm hk hj, commit_noSend]
  case full => rw [keydown_exhausted hm hk (findSlot_eq_none hnew) (findSlot_eq_none hfull), commit_error]
  case insert =>
    rw [keydown_insert hm hk (findSlot_eq_none hnew) (findSlot_eq_some hi hfirst)]
    refine ⟨_, setSlot s.dev.kbd.kbdSlot i u, rfl, ?_, fun j hj => ?_, commit_send_kbd s _⟩
    · rw [getElem_setSlot, if_pos rfl]
    · rw [getElem_setSlot, if_neg hj.symm]

/-- Settles O16: the bit of the event's own side decides between the no-op and the report, and the mask clears that bit
alone. -/
theorem keyupOfModifierClearsItsBit : Obligations.KeyupOfModifierClearsItsBit := by
  intro s kc r m hm
  constructor
  · intro hclear
    rw [exec_keyup, keyup_modifier_clear hm hclear, commit_noSend]
  · intro hset
    rw [exec_keyup, keyup_modifier_set hm hset]
    exact ⟨_, _, rfl, fun k hk => getLsbD_and_not_modifierMask _ m r hk, commit_send_kbd s _⟩

/-- Settles O18: the completion record says whether KEYDOWN called for a report or was a no-op, and the round trip of the
two event operations (R76) says what KEYUP then answers. -/
theorem keydownThenKeyupRestoresKeyboard : Obligations.KeydownThenKeyupRestoresKeyboard := by
  intro s s1 s2 kc r hexec hcfg hdev
  rw [exec_keydown] at hexec
  cases hexec
  obtain ⟨-, hdev1, -⟩ := commit_frame s (keydown s.cfg s.dev kc r)
  rw [exec_keyup, hcfg, hdev, hdev1]
  constructor
  · intro hcmd
    obtain ⟨d1, hdown⟩ := eq_send_kbd_of_cmplCmd hcmd
    rw [hdown, EventResult.device, keyup_of_keydown_send hdown]
    exact ⟨_, rfl, commit_send_dev_cmplCmd s2 s.dev .kbd⟩
  · intro hl hst hcmd
    have hdown := keydown_eq_noSend_of_ok hst hcmd
    obtain ⟨d2, hup, hne⟩ := keyup_of_keydown_noSend hl hdown
    obtain ⟨hdev2, hcmd2⟩ := commit_send_dev_cmplCmd s2 d2 .kbd
    rw [hdown, EventResult.device, hup]
    exact ⟨_, rfl, hdev2.symm ▸ hne, hcmd2⟩

end Sys2Proof.Proofs.Keyboard
end

section
/-! The mouse events (41_mouse.md): what each check of a mouse event answers, what the completion record holds after it,
and from these the order of the checks (R86) and the range of the wheel byte (R84). -/

namespace Sys2Proof.Proofs.Mouse

open Sys2Proof Sys2Proof.Machine
open Sys2Proof.Proofs.Keyboard (commit_error commit_noSend commit_send)

/-! ### The operand check and the guard -/

/-- The indices BTNDOWN accepts are 1, 2 and 3 (R81). -/
theorem isButton_iff (btn : Byte) : isButton btn = true ↔ 1 ≤ btn.toNat ∧ btn.toNat ≤ 3 := by
  simp only [isButton, Bool.or_eq_true, beq_iff_eq, ← BitVec.toNat_inj, BitVec.ofNat_eq_ofNat, BitVec.toNat_ofNat]
  omega

/-- The indices BTNUP accepts are 0 to 3 (R82). -/
theorem isButtonOrAll_iff (btn : Byte) : isButtonOrAll btn = true ↔ btn.toNat ≤ 3 := by
  simp only [isButtonOrAll, Bool.or_eq_true, isButton_iff, beq_iff_eq, ← BitVec.toNat_inj, BitVec.ofNat_eq_ofNat,
    BitVec.toNat_ofNat]
  omega

section

variable {c : Config} {d : Device} {out : Bool} {btn tilt : Byte}

/-- Outside the capture area the guard of a button or scroll event suppresses (R78). -/
theorem guardOther_suppress (hg : c.oobGuard = true) (ho : d.oob = true) : guardOther c d = .suppress d := by
  simp [guardOther, hg, ho]

/-- With the guard off, or inside the capture area, a button or scroll event goes on (R78). -/
theorem guardOther_proceed (h : c.oobGuard = false ∨ d.oob = false) : guardOther c d = .proceed d := by
  rcases h with h | h <;> simp [guardOther, h]

/-- The guard suppresses a move outside the capture area and remembers it in `oob` (R78). -/
theorem guardMove_suppress (hg : c.oobGuard = true) : guardMove c d true = .suppress { d with oob := true } := by
  simp [guardMove, hg]

/-- With the guard off, or inside the capture area, a move goes on; the guard clears `oob` (R78). -/
theorem guardMove_proceed (h : c.oobGuard = false ∨ out = false) :
    guardMove c d out = .proceed { d with oob := if c.oobGuard then false else d.oob } := by
  cases hg : c.oobGuard with
  | false => simp [guardMove, hg]
  | true =>
    obtain rfl : out = false := h.resolve_left (by simp [hg])
    simp [guardMove, hg]

/-! ### What each event operation answers -/

/-- An outside move is suppressed (R79). -/
theorem movea_suppress (hg : c.oobGuard = true) (x y : Coord) :
    movea c d x y true = .suppress { d with oob := true } := by
  rw [movea, guardMove_suppress hg]

/-- An absolute move that passes the guard is stored and calls for the absolute packet (R79). -/
theorem movea_send (h : c.oobGuard = false ∨ out = false) (x y : Coord) :
    movea c d x y out =
      .send { d with mouse := { d.mouse with msX := zextCoord x, msY := zextCoord y }
                     oob := if c.oobGuard then false else d.oob } .abs := by
  rw [movea, guardMove_proceed h]

/-- An outside move is suppressed (R80). -/
theorem mover_suppress (hg : c.oobGuard = true) (dx dy : Byte) :
    mover c d dx dy true = .suppress { d with oob := true } := by
  rw [mover, guardMove_suppress hg]

/-- A relative move that passes the guard calls for the relative packet (R80). -/
theorem mover_send (h : c.oobGuard = false ∨ out = false) (dx dy : Byte) :
    mover c d dx dy out = .send { d with oob := if c.oobGuard then false else d.oob } (.rel dx dy 0x00) := by
  rw [mover, guardMove_proceed h]

/-- A bad index of BTNDOWN is rejected before the guard (R81). -/
theorem btndown_error (hb : ¬ (1 ≤ btn.toNat ∧ btn.toNat ≤ 3)) : btndown c d btn = .error .invalidOpcode := by
  rw [btndown, if_neg (mt (isButton_iff btn).1 hb)]

/-- A good index of BTNDOWN outside the capture area is suppressed (R81). -/
theorem btndown_suppress (hb : 1 ≤ btn.toNat ∧ btn.toNat ≤ 3) (hg : c.oobGuard = true) (ho : d.oob = true) :
    btndown c d btn = .suppress d := by
  rw [btndown, if_pos ((isButton_iff btn).2 hb), guardOther_suppress hg ho]

/-- A BTNDOWN that passes both checks sets the button's bit and calls for the relative packet (R81). -/
theorem btndown_send (hb : 1 ≤ btn.toNat ∧ btn.toNat ≤ 3) (h : c.oobGuard = false ∨ d.oob = false) :
    btndown c d btn =
      .send { d with mouse := { d.mouse with msBtn := d.mouse.msBtn ||| buttonMask btn } } (.rel 0x00 0x00 0x00) := by
  rw [btndown, if_pos ((isButton_iff btn).2 hb), guardOther_proceed h]

/-- A bad index of BTNUP is rejected before the guard (R82). -/
theorem btnup_error (hb : 3 < btn.toNat) : btnup c d btn = .error .invalidOpcode := by
  rw [btnup, if_neg (mt (isButtonOrAll_iff btn).1 (Nat.not_le.2 hb))]

/-- A good index of BTNUP outside the capture area is suppressed (R82). -/
theorem btnup_suppress (hb : btn.toNat ≤ 3) (hg : c.oobGuard = true) (ho : d.oob = true) :
    btnup c d btn = .suppress d := by
  rw [btnup, if_pos ((isButtonOrAll_iff btn).2 hb), guardOther_suppress hg ho]

/-- A BTNUP that passes both checks clears the button's bit, or all, and calls for the relative packet (R82). -/
theorem btnup_send (hb : btn.toNat ≤ 3) (h : c.oobGuard = false ∨ d.oob = false) :
    btnup c d btn =
      .send { d with mouse := { d.mouse with
          msBtn := if btn = 0 then 0x00 else d.mouse.msBtn &&& ~~~buttonMask btn } } (.rel 0x00 0x00 0x00) := by
  rw [btnup, if_pos ((isButtonOrAll_iff btn).2 hb), guardOther_proceed h]

/-- A SCROLL outside the capture area is suppressed, whatever its tilt (R83). -/
theorem scroll_suppress (hg : c.oobGuard = true) (ho : d.oob = true) : scroll c d tilt = .suppress d := by
  rw [scroll, guardOther_suppress hg ho]

/-- A tilt of 0 that passes the guard is a no-op (R83). -/
theorem scroll_noSend (h : c.oobGuard = false ∨ d.oob = false) : scroll c d 0 = .noSend d := by
  rw [scroll, guardOther_proceed h]
  rfl

/-- Any other tilt that passes the guard calls for the relative packet with the wheel byte (R83). -/
theorem scroll_send (h : c.oobGuard = false ∨ d.oob = false) (ht : tilt ≠ 0) :
    scroll c d tilt = .send d (.rel 0x00 0x00 (wheel c tilt)) := by
  rw [scroll, guardOther_proceed h]
  exact if_neg ht

end

/-! ### The state and the completion record by the event's result (R107) -/

section

variable {s t : State} {i : Instr} {d : Device}

/-- The edge that takes an event leaves what committing the event's result leaves (R107). -/
theorem eq_commit_of_exec {r : EventResult} (h : exec i s = .next t) (hr : eventResult i s.cfg s.dev = some r) :
    t = commit s r := by
  have hevent : isEvent i = true := by cases i <;> first | rfl | cases hr
  obtain ⟨r', hr', hexec⟩ := exec_event hevent s
  cases hr.symm.trans hr'
  cases h.symm.trans hexec
  rfl

/-- A rejected event completes with its error (R116). -/
theorem cmplStatus_of_error {st : Status} (h : exec i s = .next t)
    (hr : eventResult i s.cfg s.dev = some (.error st)) : t.ctl.cmplStatus = st := by
  rw [eq_commit_of_exec h hr, commit_error]
  rfl

/-- An event that the guard drops completes Suppressed (R78). -/
theorem cmplStatus_of_suppress (h : exec i s = .next t) (hr : eventResult i s.cfg s.dev = some (.suppress d)) :
    t.ctl.cmplStatus = .suppressed := by
  rw [eq_commit_of_exec h hr]
  rfl

/-- An event that calls for a packet while the link is closed completes TransportUnavailable (R99). -/
theorem cmplStatus_of_send_closed {p : PacketCall} (hlink : s.pins.linkUp = false) (h : exec i s = .next t)
    (hr : eventResult i s.cfg s.dev = some (.send d p)) :
    t.ctl.cmplStatus = .transportUnavailable := by
  rw [eq_commit_of_exec h hr, (commit_send s d p).2 hlink]
  rfl

/-- With the link up the buffer's first bytes are those of the packet called for (R100). -/
theorem pkt_of_send_open {p : PacketCall} (hlink : s.pins.linkUp = true) (h : exec i s = .next t)
    (hr : eventResult i s.cfg s.dev = some (.send d p))
    {k : Nat} (hk : k < 14) (hlen : k < (buildPacket d p).length) : t.framer.pkt[k] = (buildPacket d p)[k] := by
  obtain ⟨hpkt, -⟩ := (commit_send s d p).1 hlink
  calc t.framer.pkt[k]
      = (commit s (.send d p)).framer.pkt.toList[k]'(by simpa using hk) := by
        simp only [eq_commit_of_exec h hr, Vector.getElem_toList]
    _ = (buildPacket d p)[k] := by simp only [hpkt, List.getElem_append_left hlen]

end

/-! ### The wheel byte (R84) -/

/-- A legal sensitivity lies in `0x01..0x7E` (R2). -/
theorem scrollSens_range_of_legal {c : Config} (h : legalConfig c = true) :
    1 ≤ c.scrollSens.toNat ∧ c.scrollSens.toNat ≤ 0x7E := by
  simp only [legalConfig, Bool.and_eq_true, decide_eq_true_eq] at h
  obtain ⟨⟨⟨⟨⟨⟨⟨hlow, hhigh⟩, -⟩, -⟩, -⟩, -⟩, -⟩, -⟩ := h
  exact ⟨hlow, hhigh⟩

/-- A negative tilt's wheel byte is the sensitivity. -/
theorem wheel_of_neg (c : Config) {tilt : Byte} (h : tilt.toInt < 0) : wheel c tilt = c.scrollSens := by
  rw [wheel, BitVec.msb_eq_toInt, decide_eq_true h, if_pos rfl]

/-- Any other tilt's wheel byte is `0xFF` less the sensitivity, and the subtraction does not wrap. -/
theorem wheel_toNat_of_nonneg (c : Config) {tilt : Byte} (h : 0 ≤ tilt.toInt) :
    (wheel c tilt).toNat = 255 - c.scrollSens.toNat := by
  have hle : c.scrollSens ≤ 0xFF := BitVec.le_def.2 (Nat.le_of_lt_succ c.scrollSens.isLt)
  rw [wheel, BitVec.msb_eq_toInt, decide_eq_false (Int.not_lt.2 h), if_neg Bool.false_ne_true,
    BitVec.toNat_sub_of_le hle]
  rfl

/-- With the link up a SCROLL that passes the guard puts the wheel byte into byte 9 of the buffer (R83, R96, R100). -/
theorem wheelByte_of_exec_scroll {s t : State} {tilt : Byte} (hlink : s.pins.linkUp = true)
    (hguard : s.cfg.oobGuard = false ∨ s.dev.oob = false) (ht : tilt ≠ 0) (h : exec (.scroll tilt) s = .next t) :
    t.framer.pkt[9] = wheel s.cfg tilt :=
  pkt_of_send_open hlink h (congrArg some (scroll_send hguard ht)) (by decide) (by simp [buildPacket_length])

/-! ### The obligations -/

/-- Settles O26: the buffer's wheel byte is the formula of R84 for the tilt's sign, and a legal sensitivity bounds it. -/
theorem wheelByteTellsTheDirection : Obligations.WheelByteTellsTheDirection := by
  intro s t tilt hlegal hlink hguard hexec
  obtain ⟨hlow, hhigh⟩ := scrollSens_range_of_legal hlegal
  have hbyte : tilt.toInt ≠ 0 → t.framer.pkt[9] = wheel s.cfg tilt := fun hne =>
    wheelByte_of_exec_scroll hlink hguard (fun h0 => hne (by rw [h0]; rfl)) hexec
  constructor
  · intro hneg
    rw [hbyte hneg.ne, wheel_of_neg _ hneg]
    exact ⟨rfl, hlow, hhigh⟩
  · intro hpos
    rw [hbyte hpos.ne', wheel_toNat_of_nonneg _ hpos.le]
    omega

/-- Settles O27: each clause names the check that decides, so the event operation's answer at that check is its result,
and the result alone fixes the status. -/
theorem mouseChecksRunInOrder : Obligations.MouseChecksRunInOrder := by
  intro s t
  refine ⟨?badIndex, ?downZero, ?scrollGuarded, ?buttonGuarded, ?moveGuarded, ?scrollZero, ?closedLink⟩
  case badIndex =>
    rintro btn hbtn (hdown | hup)
    · exact cmplStatus_of_error hdown (congrArg some (btndown_error fun hb => Nat.not_le.2 hbtn hb.2))
    · exact cmplStatus_of_error hup (congrArg some (btnup_error hbtn))
  case downZero => exact fun hexec => cmplStatus_of_error hexec (congrArg some (btndown_error (by decide)))
  case scrollGuarded =>
    intro hg ho tilt hexec
    exact cmplStatus_of_suppress hexec (congrArg some (scroll_suppress hg ho))
  case buttonGuarded =>
    rintro hg ho btn hbtn (hup | ⟨hne, hdown⟩)
    · exact cmplStatus_of_suppress hup (congrArg some (btnup_suppress hbtn hg ho))
    · have hpos : 1 ≤ btn.toNat := Nat.pos_of_ne_zero fun h0 => hne (BitVec.eq_of_toNat_eq h0)
      exact cmplStatus_of_suppress hdown (congrArg some (btndown_suppress ⟨hpos, hbtn⟩ hg ho))
  case moveGuarded =>
    rintro hg i (⟨x, y, rfl⟩ | ⟨dx, dy, rfl⟩) hexec
    · exact cmplStatus_of_suppress hexec (congrArg some (movea_suppress hg x y))
    · exact cmplStatus_of_suppress hexec (congrArg some (mover_suppress hg dx dy))
  case scrollZero =>
    intro hguard hexec
    rw [eq_commit_of_exec hexec (congrArg some (scroll_noSend hguard)), commit_noSend]
    exact ⟨rfl, rfl⟩
  case closedLink =>
    rintro hlink i (⟨x, y, out, hguard, rfl⟩ | ⟨dx, dy, out, hguard, rfl⟩ |
      ⟨hguard, ⟨btn, hlow, hhigh, rfl⟩ | ⟨btn, hbtn, rfl⟩ | ⟨tilt, ht, rfl⟩⟩) hexec
    · exact cmplStatus_of_send_closed hlink hexec (congrArg some (movea_send hguard x y))
    · exact cmplStatus_of_send_closed hlink hexec (congrArg some (mover_send hguard dx dy))
    · exact cmplStatus_of_send_closed hlink hexec (congrArg some (btndown_send ⟨hlow, hhigh⟩ hguard))
    · exact cmplStatus_of_send_closed hlink hexec (congrArg some (btnup_send hbtn hguard))
    · exact cmplStatus_of_send_closed hlink hexec (congrArg some (scroll_send hguard ht))

end Sys2Proof.Proofs.Mouse
end

section
/-! The framer's packets (43_framer.md): the relative and the absolute packet byte by byte, and from them the bytes that
the delta remap does and does not touch (R98); then what an event does under an open and a closed link (R99). -/

namespace Sys2Proof.Proofs.Framer

open Sys2Proof Sys2Proof.Machine
open Sys2Proof.Proofs.Keyboard (commit_send commit_send_dev_cmplCmd)
open Sys2Proof.Proofs.Mouse (mover_send movea_send wheelByte_of_exec_scroll pkt_of_send_open)

/-! ### The packets byte by byte -/

/-- The two bytes of a 16-bit value are its remainder and its quotient by 256 (R31). -/
theorem le16_eq (v : Word16) : le16 v = [BitVec.ofNat 8 (v.toNat % 256), BitVec.ofNat 8 (v.toNat / 256)] := by
  simp only [le16, List.cons.injEq, and_true, ← BitVec.toNat_inj, BitVec.extractLsb'_toNat, BitVec.toNat_ofNat,
    Nat.shiftRight_eq_div_pow]
  omega

/-- The relative packet is the report of R96 with remapped deltas, its checksum the sum of the bytes before it. -/
theorem buildPacket_rel (d : Device) (dx dy w : Byte) : buildPacket d (.rel dx dy w) = relReport d.mouse.msBtn dx dy w := by
  simp [buildPacket, withChecksum, relBody, frameBody, relReport, closed, additive, checksum_eq, remap, hdr, cmdRel]

/-- The absolute packet is the report of R95, its checksum the sum of the bytes before it. -/
theorem buildPacket_abs (d : Device) :
    buildPacket d .abs = absReport d.mouse.msBtn d.mouse.msX.toNat d.mouse.msY.toNat := by
  simp [buildPacket, withChecksum, absBody, frameBody, absReport, closed, additive, checksum_eq, le16_eq, hdr, cmdAbs]

/-- A remapped delta is never `0x80` (R98). -/
theorem remapped_ne (v : Byte) : (if v = 0x80 then 0x81 else v) ≠ (0x80 : Byte) := by
  split
  · decide
  · assumption

/-- The wheel byte's formula turns on the tilt's sign (R84). -/
theorem wheel_eq (c : Config) (tilt : Byte) :
    wheel c tilt = if tilt.toInt < 0 then c.scrollSens else 0xFF - c.scrollSens := by
  simp only [wheel, BitVec.msb_eq_toInt, decide_eq_true_eq]

/-- Extending a coordinate to 16 bits keeps its value (R54). -/
theorem zextCoord_toNat (v : Coord) : (zextCoord v).toNat = v.toNat :=
  BitVec.toNat_setWidth_of_le (by decide)

/-! ### The buffer after an event with the link up (R100) -/

section

variable {s t : State} {d : Device}

/-- After a relative packet the buffer holds the remapped deltas. -/
theorem deltaBytes_of_send_rel {i : Instr} {dx dy w : Byte} (hlink : s.pins.linkUp = true) (h : exec i s = .next t)
    (hr : eventResult i s.cfg s.dev = some (.send d (.rel dx dy w))) :
    t.framer.pkt[7] = (if dx = 0x80 then 0x81 else dx) ∧ t.framer.pkt[8] = (if dy = 0x80 then 0x81 else dy) := by
  have hbyte {k : Nat} (hk : k < 11) := pkt_of_send_open hlink h hr (show k < 14 by omega) (by simpa [buildPacket_length])
  simp only [buildPacket_rel] at hbyte
  exact ⟨hbyte (by decide), hbyte (by decide)⟩

/-- After an absolute packet the buffer holds both coordinates, least significant byte first (R31). -/
theorem coordBytes_of_send_abs {i : Instr} (hlink : s.pins.linkUp = true) (h : exec i s = .next t)
    (hr : eventResult i s.cfg s.dev = some (.send d .abs)) :
    t.framer.pkt[7].toNat = d.mouse.msX.toNat % 256 ∧ t.framer.pkt[8].toNat = d.mouse.msX.toNat / 256 ∧
    t.framer.pkt[9].toNat = d.mouse.msY.toNat % 256 ∧ t.framer.pkt[10].toNat = d.mouse.msY.toNat / 256 := by
  have hbyte {k : Nat} (hk : k < 13) := pkt_of_send_open hlink h hr (show k < 14 by omega) (by simpa [buildPacket_length])
  simp only [buildPacket_abs] at hbyte
  have h7 : t.framer.pkt[7] = BitVec.ofNat 8 (d.mouse.msX.toNat % 256) := hbyte (by decide)
  have h8 : t.framer.pkt[8] = BitVec.ofNat 8 (d.mouse.msX.toNat / 256) := hbyte (by decide)
  have h9 : t.framer.pkt[9] = BitVec.ofNat 8 (d.mouse.msY.toNat % 256) := hbyte (by decide)
  have h10 : t.framer.pkt[10] = BitVec.ofNat 8 (d.mouse.msY.toNat / 256) := hbyte (by decide)
  simp only [h7, h8, h9, h10, BitVec.toNat_ofNat]
  omega

end

/-- Settles O22: the deltas pass `remap` and only they do, as the relative and the absolute packet of R95 and R96 show. -/
theorem onlyDeltaBytesAreRemapped : Obligations.OnlyDeltaBytesAreRemapped := by
  intro s t hlink
  refine ⟨?deltas, ?wheelByte, ?coordinates⟩
  case deltas =>
    intro dx dy out hguard hexec
    obtain ⟨hdx, hdy⟩ := deltaBytes_of_send_rel hlink hexec (congrArg some (mover_send hguard dx dy))
    exact ⟨hdx, hdy, hdx ▸ remapped_ne dx, hdy ▸ remapped_ne dy⟩
  case wheelByte =>
    intro tilt htilt hguard hexec
    rw [wheelByte_of_exec_scroll hlink hguard htilt hexec, wheel_eq]
  case coordinates =>
    intro x y out hguard hexec
    simpa only [zextCoord_toNat] using
      coordBytes_of_send_abs hlink hexec (congrArg some (movea_send hguard x y))

/-! ### The closed link (R99) -/

/-- An event's result does not depend on the pins: under any pins the edge commits the same one (R107). -/
theorem exec_event_withPins {i : Instr} (h : isEvent i = true) (s : State) :
    ∃ r, ∀ p, exec i (s.withPins p) = .next (commit (s.withPins p) r) := by
  obtain ⟨r, hr, -⟩ := exec_event h s
  refine ⟨r, fun p => ?_⟩
  obtain ⟨r', hr', hexec⟩ := exec_event h (s.withPins p)
  obtain rfl : r = r' := Option.some.inj (hr.symm.trans hr')
  exact hexec

/-- Committing a result leaves its device state, whatever the pins. -/
theorem commit_withPins_dev (s : State) (p : Pins) (r : EventResult) :
    (commit (s.withPins p) r).dev = r.device s.dev := by
  obtain ⟨-, hdev, -⟩ := commit_frame (s.withPins p) r
  exact hdev

/-- With the link down no result loads anything (R99). -/
theorem commit_closed_framer {s : State} (hlink : s.pins.linkUp = false) (r : EventResult) :
    (commit s r).framer = s.framer := by
  cases r with
  | error st => rfl
  | noSend d => rfl
  | suppress d => rfl
  | send d p => rw [(commit_send s d p).2 hlink]; rfl

/-- A result that puts the block into TX calls for a packet. -/
theorem eq_send_of_commit_tx {s : State} {r : EventResult} (h : (commit s r).ctl.fsm = .tx) : ∃ d p, r = .send d p := by
  cases r with
  | error st => cases h
  | noSend d => cases h
  | suppress d => cases h
  | send d p => exact ⟨d, p, rfl⟩

/-- With the link up a result that calls for a packet puts the block into TX (R100). -/
theorem commit_send_open_tx {s : State} (hlink : s.pins.linkUp = true) (d : Device) (p : PacketCall) :
    (commit s (.send d p)).ctl.fsm = .tx := by
  obtain ⟨-, heq⟩ := (commit_send s d p).1 hlink
  rw [heq]

/-- Settles O52: both edges commit one result, and only a result that calls for a packet looks at the link. -/
theorem closedLinkKeepsTheStateChange : Obligations.ClosedLinkKeepsTheStateChange := by
  intro s p i hevent
  obtain ⟨r, hexec⟩ := exec_event_withPins hevent s
  refine ⟨_, _, hexec _, hexec _, ?sameDevice, ?nothingLoaded, ?packet, ?noPacket⟩
  case sameDevice => rw [commit_withPins_dev, commit_withPins_dev]
  case nothingLoaded => exact commit_closed_framer rfl r
  case packet =>
    intro htx
    obtain ⟨d, c, rfl⟩ := eq_send_of_commit_tx htx
    obtain ⟨hdev, hcmd⟩ := commit_send_dev_cmplCmd (s.withPins { p with linkUp := true }) d c
    rw [hdev, hcmd]
    exact (commit_send _ d c).2 rfl
  case noPacket =>
    intro hntx
    cases r with
    | error st => rfl
    | noSend d => rfl
    | suppress d => rfl
    | send d c => exact absurd (commit_send_open_tx rfl d c) hntx

end Sys2Proof.Proofs.Framer
end

section
/-! The correlator (44_correlator.md): the RX parser at every edge (R104), a frame judged in WAIT (R109) and thrown away
outside it (R106), and the edge that shows the completion record (R111). -/

namespace Sys2Proof.Proofs.Correlator

open Sys2Proof Sys2Proof.Machine

/-! ### The parser at an edge (R104) -/

section

variable {p : RxRegs} {b : Byte}

/-- A valid byte in H0. -/
theorem rxStep_h0 (h : p.rxSt = .h0) : rxStep b p = if b = 0x57 then { p with rxSum := 0x57, rxSt := .h1 } else p := by
  simp only [rxStep, h]

/-- A header's first byte in H1 or H2 starts the header again. -/
theorem rxStep_restart (h : p.rxSt = .h1 ∨ p.rxSt = .h2) (hb : b = 0x57) :
    rxStep b p = { p with rxSum := 0x57, rxSt := .h1 } := by
  subst hb
  rcases h with h | h <;> simp [rxStep, h]

/-- The header's second byte in H1. -/
theorem rxStep_h1_header (h : p.rxSt = .h1) (hb : b = 0xAB) :
    rxStep b p = { p with rxSum := p.rxSum + 0xAB, rxSt := .h2 } := by
  simp [rxStep, h, hb]

/-- A byte in H1 that is no header byte. -/
theorem rxStep_h1_other (h : p.rxSt = .h1) (hb : b ≠ 0xAB) (hb' : b ≠ 0x57) : rxStep b p = { p with rxSt := .h0 } := by
  simp only [rxStep, h, if_neg hb, if_neg hb']

/-- The header's third byte in H2. -/
theorem rxStep_h2_header (h : p.rxSt = .h2) (hb : b = 0x00) : rxStep b p = { p with rxSt := .cmd } := by
  simp [rxStep, h, hb]

/-- A byte in H2 that is no header byte. -/
theorem rxStep_h2_other (h : p.rxSt = .h2) (hb : b ≠ 0x00) (hb' : b ≠ 0x57) : rxStep b p = { p with rxSt := .h0 } := by
  simp only [rxStep, h, if_neg hb, if_neg hb']

/-- The code byte. -/
theorem rxStep_cmd (h : p.rxSt = .cmd) : rxStep b p = { p with rxCmd := b, rxSum := p.rxSum + b, rxSt := .len } := by
  simp only [rxStep, h]

/-- The length byte. -/
theorem rxStep_len (h : p.rxSt = .len) :
    rxStep b p = { p with rxLen := b, rxSum := p.rxSum + b, rxCnt := 0, rxSt := if b = 0 then .sum else .data } := by
  simp only [rxStep, h]

/-- A payload byte. -/
theorem rxStep_data (h : p.rxSt = .data) :
    rxStep b p =
      { p with rxSum := p.rxSum + b, rxCnt := p.rxCnt + 1, rxSt := if p.rxCnt + 1 = p.rxLen then .sum else .data } := by
  simp only [rxStep, h]

/-- The checksum byte. -/
theorem rxStep_sum (h : p.rxSt = .sum) : rxStep b p = { p with rxSt := .h0 } := by
  simp only [rxStep, h]

/-- A byte taken outside SUM ends no frame. -/
theorem rxFrame_eq_none (h : p.rxSt ≠ .sum) : rxFrame b p = none := by
  cases hf : rxFrame b p with
  | none => rfl
  | some f => exact absurd (rxFrame_eq_some hf).1 h

/-- A byte taken in SUM ends a frame. -/
theorem rxFrame_sum (h : p.rxSt = .sum) : rxFrame b p = some ⟨b == p.rxSum, p.rxCmd⟩ := by
  simp only [rxFrame, h]

end

section

variable {s t : State}

/-- The parser steps at an edge with a valid byte. -/
theorem rxNext_of_valid (hv : s.pins.rxValid = true) : s.rxNext = rxStep s.pins.rxData s.rx := if_pos hv

/-- The parser keeps its registers at an edge without a valid byte. -/
theorem rxNext_of_not_valid (hv : s.pins.rxValid = false) : s.rxNext = s.rx := by
  simp [State.rxNext, hv]

/-- No frame ends without a valid byte in SUM. -/
theorem frame_eq_none (h : s.pins.rxValid = false ∨ s.rx.rxSt ≠ .sum) : s.frame = none := by
  unfold State.frame
  split
  · next hv => exact rxFrame_eq_none (h.resolve_left (by simp [hv]))
  · rfl

/-- A valid byte in SUM ends a frame, with its checksum test and its code. -/
theorem frame_of_sum (hv : s.pins.rxValid = true) (hsum : s.rx.rxSt = .sum) :
    s.frame = some ⟨s.pins.rxData == s.rx.rxSum, s.rx.rxCmd⟩ :=
  (if_pos hv).trans (rxFrame_sum hsum)

/-- Every edge that runs steps the parser, whatever its control part does (R44, R133). -/
theorem rx_of_step (hrun : Running s) (h : step s = .next t) : t.rx = s.rxNext := by
  rcases step_cases s with ⟨hl, -⟩ | ⟨-, hr, -⟩ | ⟨-, -, i, u, -, -, hstep⟩ | ⟨-, -, -, hstep⟩
  · simp [hrun.1] at hl
  · simp [hrun.not_resetting] at hr
  all_goals
    rw [hstep] at h
    cases h
    rfl

end

/-- Settles O43: every edge that runs leaves `rxNext` in the parser's registers, so each transition is `rxStep`'s equation
for the parser's state. -/
theorem parserTakesEveryValidByte : Obligations.ParserTakesEveryValidByte := by
  intro s t hrun hstep
  rw [rx_of_step hrun hstep]
  refine ⟨frame_eq_none, frame_of_sum, rxNext_of_not_valid, fun hv => ?_⟩
  rw [rxNext_of_valid hv]
  exact ⟨rxStep_h0, rxStep_restart, rxStep_h1_header, rxStep_h1_other, rxStep_h2_header, rxStep_h2_other, rxStep_cmd,
    rxStep_len, rxStep_data, rxStep_sum⟩

/-! ### A frame in WAIT (R109) -/

section

variable {s : State} {f : Frame}

/-- Resolving a wait is completing with the record's command byte and the device state kept (R109, R113). -/
theorem resolve_eq_completedAs (st : Status) (s : State) : resolve st s = completedAs s.dev st s.ctl.cmplCmd s := rfl

/-- A frame that the PendingReply gives a status ends the wait with it. -/
theorem step_wait_judged {st : Status} (hrun : Running s) (hw : s.ctl.fsm = .wait) (hf : s.frame = some f)
    (hj : judge s.ctl.pendCmd f = some st) :
    step s = .next (afterEdge s (completedAs s.dev st s.ctl.cmplCmd s)) := by
  simp only [step_wait hrun hw, waitEdge, hf, Option.bind_some, hj, resolve_eq_completedAs]

/-- An edge in WAIT that resolves nothing counts the timer down, where it is above 1 (R110). -/
theorem countDown_of_lt (ht : 1 < s.ctl.pendTimer) :
    countDown s = { s with ctl := { s.ctl with pendTimer := s.ctl.pendTimer - 1 } } := by
  simp only [countDown, timerDown, if_neg (show s.ctl.pendTimer ≠ 1 by omega), if_neg (show s.ctl.pendTimer ≠ 0 by omega)]

/-- A frame that the PendingReply ignores leaves the wait to its timer (R109, R110). -/
theorem step_wait_ignored (hrun : Running s) (hw : s.ctl.fsm = .wait) (hf : s.frame = some f)
    (hj : judge s.ctl.pendCmd f = none) : step s = .next (afterEdge s (countDown s)) := by
  simp only [step_wait hrun hw, waitEdge, hf, Option.bind_some, hj]

end

/-- Settles O36: the frame that ends carries the checksum test and the code, and `judge` answers for each case of R109. -/
theorem frameInWaitIsJudged : Obligations.FrameInWaitIsJudged := by
  intro s hrun hw hv hsum
  have hf := frame_of_sum hv hsum
  refine ⟨fun hbad => ?mismatch, fun hgood hok => ?success, fun hgood hnok herr => ?error,
    fun hgood hnok hnerr ht => ?ignored⟩
  case mismatch => exact step_wait_judged hrun hw hf (judge_bad (beq_false_of_ne hbad))
  case success => exact step_wait_judged hrun hw hf (judge_ok (beq_of_eq hgood) hok)
  case error => exact step_wait_judged hrun hw hf (judge_error (beq_of_eq hgood) hnok herr)
  case ignored =>
    rw [step_wait_ignored hrun hw hf (judge_other (beq_of_eq hgood) hnok hnerr), countDown_of_lt ht]

/-! ### DONE and IDLE (R107, R111) -/

/-- An edge in IDLE that runs without an event changes nothing but the parser (R107). -/
theorem step_idle_quiet {s : State} (hrun : Running s) (hw : s.ctl.fsm = .idle) (hv : s.pins.evtValid = false) :
    step s = .next (afterEdge s s) := by
  rw [step_of_no_fetch hrun (by simp [State.fetch, hw, hv])]
  simp [controlEdge, hw, hv]

/-- The outputs depend on the control and framer registers alone (R14), which the end of an edge does not touch. -/
theorem outputs_afterEdge (s t : State) : (afterEdge s t).outputs = t.outputs := rfl

/-- Settles O8: the outputs are functions of the registers, which the edge in DONE changes only in `fsm` and the quiet edge
in IDLE not at all. -/
theorem doneShowsCompletionForOneCycle : Obligations.DoneShowsCompletionForOneCycle := by
  intro s hrun
  constructor
  · intro hdone
    exact ⟨by simp [State.outputs, hdone], rfl, rfl, step_done hrun hdone⟩
  · intro hidle hv
    have hlow : s.outputs.cmplValid = false := by simp [State.outputs, hidle]
    exact ⟨_, step_idle_quiet hrun hidle hv, outputs_afterEdge s s, hlow⟩

/-! ### RX pins and parser registers outside WAIT (R106) -/

/-- A frame that ends outside WAIT changes nothing. -/
theorem runReply_of_ne_wait {s : State} (h : s.ctl.fsm ≠ .wait) (f : Frame) : runReply f s = s := by
  unfold runReply
  cases hw : s.ctl.fsm with
  | wait => exact absurd hw h
  | idle => rfl
  | tx => rfl
  | done => rfl

/-- What an event word makes of a configuration and a device state: its event's result, or the malformed word's (R88,
R107). -/
def wordResult (c : Config) (d : Device) (w : EventWord) : EventResult :=
  match decodeEvent w with
  | .ok i => (eventResult i c d).getD malformed
  | .error _ => malformed

/-- An edge in IDLE that takes an event word commits the word's result (R107, R133). -/
theorem step_idle_wordResult {s : State} (hrun : Running s) (hw : s.ctl.fsm = .idle) (hv : s.pins.evtValid = true) :
    step s = .next (afterEdge s (commit s (wordResult s.cfg s.dev s.pins.evtData))) := by
  cases hd : decodeEvent s.pins.evtData with
  | ok i =>
    obtain ⟨r, hr, hexec⟩ := exec_event (decodeEvent_isEvent hd) s
    have hres : wordResult s.cfg s.dev s.pins.evtData = r := by simp [wordResult, hd, hr]
    rw [hres]
    exact step_of_fetch hrun (by simp [State.fetch, hw, hv, hd, Except.toOption]) hexec
  | error e =>
    rw [step_of_no_fetch hrun (by simp [State.fetch, hw, hv, hd, Except.toOption])]
    simp [controlEdge, hw, hv, wordResult, hd]

/-- An edge with `rst` or `teardown` leaves the reset state (R128, R130). -/
theorem step_of_resetting {s : State} (hl : legalConfig s.cfg = true) (hr : s.resetting = true) :
    step s = .next (resetEdge s) := by
  simp [step, hl, hr]

/-- The block with other RX pins at the next edge and other parser registers. -/
def withRx (regs : RxRegs) (v : Bool) (b : Byte) (s : State) : State :=
  ({ s with rx := regs } : State).withPins { s.pins with rxValid := v, rxData := b }

section

variable (regs : RxRegs) (v : Bool) (b : Byte) {s t : State}

/-- Whether an edge runs does not depend on the RX pins and the parser. -/
theorem running_withRx (h : Running s) : Running (withRx regs v b s) := h

/-- Committing a result looks at the link alone of all pins, and at no parser register. -/
theorem commit_withRx (s : State) (r : EventResult) :
    commit (withRx regs v b s) r = { commit s r with rx := regs, inputs := (withRx regs v b s).inputs } := by
  cases r with
  | error st => rfl
  | noSend d => rfl
  | suppress d => rfl
  | send d p =>
    have hlink : ({ withRx regs v b s with dev := d } : State).pins.linkUp = ({ s with dev := d } : State).pins.linkUp := rfl
    simp only [commit, sendPacket, hlink]
    split <;> rfl

/-- An edge in TX looks at `tx_ready` alone of all pins, and at no parser register. -/
theorem txEdge_withRx (s : State) :
    txEdge (withRx regs v b s) = { txEdge s with rx := regs, inputs := (withRx regs v b s).inputs } := by
  have hready : (withRx regs v b s).pins.txReady = s.pins.txReady := rfl
  have hframer : (withRx regs v b s).framer = s.framer := rfl
  simp only [txEdge, hready, hframer]
  split
  · split <;> rfl
  · rfl

/-- The end of an edge under other RX pins and parser registers differs in the parser's registers alone (R133). -/
theorem afterEdge_withRx (s t : State) :
    afterEdge (withRx regs v b s) { t with rx := regs, inputs := (withRx regs v b s).inputs } =
      { afterEdge s t with rx := (withRx regs v b s).rxNext } := rfl

/-- Outside WAIT an edge under other RX pins and parser registers leaves the same state but for the parser's registers:
none of the control parts of R107, R101 and R111 reads them. -/
theorem step_withRx (hw : s.ctl.fsm ≠ .wait) (h : step s = .next t) :
    ∃ regs', step (withRx regs v b s) = .next { t with rx := regs' } := by
  rcases step_next_cases h with ⟨hl, hr, rfl⟩ | ⟨hrun, hidle, hv, rfl⟩ | ⟨hrun, hidle, hv, -⟩ | ⟨hrun, htx, rfl⟩ |
    ⟨-, hwait, -⟩ | ⟨hrun, hdone, rfl⟩
  · exact ⟨_, step_of_resetting hl hr⟩
  · exact ⟨_, step_idle_quiet hrun hidle hv⟩
  · obtain rfl := Host.Outcome.next.inj ((step_idle_wordResult hrun hidle hv).symm.trans h)
    refine ⟨(withRx regs v b s).rxNext, (step_idle_wordResult (running_withRx regs v b hrun) hidle hv).trans ?_⟩
    rw [commit_withRx, afterEdge_withRx]
    rfl
  · refine ⟨(withRx regs v b s).rxNext, (step_tx (running_withRx regs v b hrun) htx).trans ?_⟩
    rw [txEdge_withRx, afterEdge_withRx]
  · exact absurd hwait hw
  · exact ⟨_, step_done hrun hdone⟩

end

/-- Settles O35: a reply's meaning is `runReply`, which outside WAIT is the identity, and the second edge is the first under
other RX pins and parser registers. -/
theorem frameOutsideWaitIsThrownAway : Obligations.FrameOutsideWaitIsThrownAway := by
  constructor
  · intro s cmd len paySum cks hw
    exact ⟨congrArg _ (runReply_of_ne_wait hw _), congrArg _ (runReply_of_ne_wait hw _)⟩
  · intro s t u p regs v b hw hstep hother
    obtain ⟨regs', hrx⟩ := step_withRx regs v b (s := s.withPins p) hw hstep
    cases hother.symm.trans hrx
    rfl

end Sys2Proof.Proofs.Correlator
end

section
/-! The completion statuses (60_exceptions.md): what no event's result, no frame's verdict and no edge produces (R118). -/

namespace Sys2Proof.Proofs.Exceptions

open Sys2Proof Sys2Proof.Machine
open Sys2Proof.Proofs.Correlator (wordResult step_idle_wordResult)

/-! ### No event raises InvalidModifier -/

section

variable (c : Config) (d : Device)

/-- KEYDOWN raises UnsupportedKey and KeyboardSlotsExhausted alone (R71). -/
theorem keydown_ne_invalidModifier (kc : Byte) (r : Bool) : keydown c d kc r ≠ .error .invalidModifier := by
  rcases keydown_cases c d kc r with ⟨m, -, -, h⟩ | ⟨m, -, -, h⟩ | ⟨-, -, h⟩ | ⟨u, i, -, -, -, h⟩ |
    ⟨u, i, -, -, -, -, h⟩ | ⟨u, -, -, -, -, h⟩ <;> rw [h] <;> nofun

/-- KEYUP raises UnsupportedKey alone (R74). -/
theorem keyup_ne_invalidModifier (kc : Byte) (r : Bool) : keyup c d kc r ≠ .error .invalidModifier := by
  rcases keyup_cases c d kc r with ⟨m, -, -, h⟩ | ⟨m, -, -, h⟩ | ⟨-, -, h⟩ | ⟨u, i, -, -, -, h⟩ |
    ⟨u, -, -, -, h⟩ <;> rw [h] <;> nofun

/-- MOVEA raises no error (R79). -/
theorem movea_ne_error (x y : Coord) (out : Bool) (st : Status) : movea c d x y out ≠ .error st := by
  unfold movea
  split <;> nofun

/-- MOVER raises no error (R80). -/
theorem mover_ne_error (dx dy : Byte) (out : Bool) (st : Status) : mover c d dx dy out ≠ .error st := by
  unfold mover
  split <;> nofun

/-- BTNDOWN raises InvalidOpcode alone (R81). -/
theorem btndown_ne_invalidModifier (btn : Byte) : btndown c d btn ≠ .error .invalidModifier := by
  unfold btndown
  split
  case isTrue => split <;> nofun
  case isFalse => nofun

/-- BTNUP raises InvalidOpcode alone (R82). -/
theorem btnup_ne_invalidModifier (btn : Byte) : btnup c d btn ≠ .error .invalidModifier := by
  unfold btnup
  split
  case isTrue => split <;> nofun
  case isFalse => nofun

/-- SCROLL raises no error (R83). -/
theorem scroll_ne_error (t : Byte) (st : Status) : scroll c d t ≠ .error st := by
  unfold scroll
  split
  · nofun
  · split <;> nofun

/-- No event's result is the error InvalidModifier. -/
theorem eventResult_ne_invalidModifier (i : Instr) : eventResult i c d ≠ some (.error .invalidModifier) := by
  intro h
  cases i with
  | keydown kc r => exact keydown_ne_invalidModifier c d kc r (Option.some.inj h)
  | keyup kc r => exact keyup_ne_invalidModifier c d kc r (Option.some.inj h)
  | movea x y out => exact movea_ne_error c d x y out _ (Option.some.inj h)
  | mover dx dy out => exact mover_ne_error c d dx dy out _ (Option.some.inj h)
  | btndown btn => exact btndown_ne_invalidModifier c d btn (Option.some.inj h)
  | btnup btn => exact btnup_ne_invalidModifier c d btn (Option.some.inj h)
  | scroll t => exact scroll_ne_error c d t _ (Option.some.inj h)
  | reset | pktKbd | pktAbs | pktRel | pktRst | replyOk | replyErr => cases h

/-- No event word, malformed or not, has the result InvalidModifier (R88). -/
theorem wordResult_ne_invalidModifier (w : EventWord) : wordResult c d w ≠ .error .invalidModifier := by
  unfold wordResult
  split
  · next i _ =>
    cases hr : eventResult i c d with
    | none => nofun
    | some r =>
      rintro rfl
      exact eventResult_ne_invalidModifier c d i hr
  · nofun

end

/-! ### What each edge writes into the status register -/

/-- Committing a result writes InvalidModifier only where the result is that error (R107). -/
theorem eq_error_of_commit_cmplStatus {s : State} {r : EventResult}
    (h : (commit s r).ctl.cmplStatus = .invalidModifier) : r = .error .invalidModifier := by
  cases r with
  | error st => exact congrArg EventResult.error h
  | noSend d => cases h
  | suppress d => cases h
  | send d p =>
    rcases sendPacket_cases p.cmd (buildPacket d p) { s with dev := d } with ⟨-, hsent⟩ | ⟨-, hclosed⟩
    · rw [commit, hsent] at h
      cases h
    · rw [commit, hclosed] at h
      cases h

/-- A frame's verdict is ChecksumMismatch, OK, DeviceError or none (R109). -/
theorem judge_ne_invalidModifier (cmd : Byte) (f : Frame) : judge cmd f ≠ some .invalidModifier := by
  unfold judge
  split
  case isTrue => nofun
  case isFalse =>
    split
    case isTrue => nofun
    case isFalse => split <;> nofun

/-- An edge in WAIT leaves InvalidModifier only where it finds it: a verdict and the timeout are other statuses, and
counting keeps the record (R109, R110). -/
theorem waitEdge_cmplStatus {f : Option Frame} {s : State} (h : (waitEdge f s).ctl.cmplStatus = .invalidModifier) :
    s.ctl.cmplStatus = .invalidModifier := by
  rcases waitEdge_cases f s with ⟨st, hverdict, heq⟩ | ⟨-, -, heq⟩ | ⟨-, -, heq⟩ <;> rw [heq] at h
  · obtain ⟨fr, -, hjudge⟩ := Option.bind_eq_some_iff.1 hverdict
    obtain rfl : st = .invalidModifier := h
    exact absurd hjudge (judge_ne_invalidModifier _ fr)
  · cases h
  · exact h

/-- Settles O50: a reset edge writes OK, an event word's result and a wait's end are never InvalidModifier, and every other
edge keeps the status. -/
theorem invalidModifierIsNeverProduced : Obligations.InvalidModifierIsNeverProduced := by
  refine ⟨rfl, fun s t hstep hst => ?_⟩
  rcases step_next_cases hstep with ⟨-, -, rfl⟩ | ⟨-, -, -, rfl⟩ | ⟨hrun, hidle, hv, -⟩ | ⟨-, -, rfl⟩ |
    ⟨-, -, rfl⟩ | ⟨-, -, rfl⟩
  · cases hst
  · exact hst
  · obtain rfl := Host.Outcome.next.inj ((step_idle_wordResult hrun hidle hv).symm.trans hstep)
    exact absurd (eq_error_of_commit_cmplStatus hst) (wordResult_ne_invalidModifier _ _ _)
  · obtain ⟨-, -, -, -, -, -, -, hkept, -⟩ := txEdge_frame s
    exact hkept.symm.trans hst
  · exact waitEdge_cmplStatus hst
  · exact hst

end Sys2Proof.Proofs.Exceptions
end

section
/-! The round trip of the three encodings (30_encoding.md): a word is the concatenation of its fields, so an event word, a
packet and a reply frame each decode to exactly the instruction that they encode; and a table word placed by
`withFetchWord` is fetched (log entry 3). -/

namespace Sys2Proof.Proofs.RoundTrip

open Sys2Proof Sys2Proof.Machine
open Sys2Proof.Proofs.Keyboard (toList_slots)
open Sys2Proof.Proofs.Encoding (extractLsb'_one guard_passed)
open Sys2Proof.Laws

/-! ### A word as the concatenation of its fields (R49 to R53) -/

/-- A value of two parts is a word exactly where each part is its own field. -/
theorem append_eq_iff {a b : Nat} {x : BitVec a} {y : BitVec b} {w : BitVec (a + b)} :
    x ++ y = w ↔ x = w.extractLsb' b a ∧ y = w.extractLsb' 0 b := by
  constructor
  · rintro rfl
    rw [BitVec.extractLsb'_append_eq_of_le le_rfl, BitVec.extractLsb'_append_eq_of_add_le (by omega), Nat.sub_self,
      BitVec.extractLsb'_eq_self, BitVec.extractLsb'_eq_self]
    exact ⟨rfl, rfl⟩
  · rintro ⟨rfl, rfl⟩
    rw [BitVec.extractLsb'_append_extractLsb'_eq_extractLsb' (Nat.zero_add b).symm, BitVec.extractLsb'_eq_self]

/-- A value of two parts is the field of a word from bit `lo` on exactly where each part is its own field. -/
theorem append_eq_extractLsb'_iff {n lo a b : Nat} {x : BitVec a} {y : BitVec b} {w : BitVec n} :
    x ++ y = w.extractLsb' lo (a + b) ↔ x = w.extractLsb' (lo + b) a ∧ y = w.extractLsb' lo b := by
  have hfields : ∀ {k l : Nat}, k + l ≤ a + b →
      (w.extractLsb' lo (a + b)).extractLsb' k l = w.extractLsb' (lo + k) l := by
    intro k l hkl
    apply BitVec.eq_of_getLsbD_eq
    intro i hi
    simp [hi, show k + i < a + b by omega, Nat.add_assoc]
  rw [append_eq_iff, hfields (by omega), hfields (by omega), Nat.add_zero]

/-- A flag is a field of one bit exactly where it is that bit. -/
theorem ofBool_eq_extractLsb'_iff (w : EventWord) (i : Nat) (b : Bool) :
    BitVec.ofBool b = w.extractLsb' i 1 ↔ b = w.getLsbD i := by
  rw [extractLsb'_one, BitVec.ofBool_eq_iff_eq]

/-- Format K (R49). -/
theorem keyWord_eq_iff {w : EventWord} {op : Byte} {r : Bool} {kc : Byte} :
    op ++ 0#23 ++ BitVec.ofBool r ++ kc = w ↔
      op = w.extractLsb' 32 8 ∧ 0 = w.extractLsb' 9 23 ∧ r = w.getLsbD 8 ∧ kc = w.extractLsb' 0 8 := by
  rw [append_eq_iff, append_eq_extractLsb'_iff, append_eq_extractLsb'_iff, ofBool_eq_extractLsb'_iff]
  simp only [and_assoc, Nat.reduceAdd]
  rfl

/-- Format M of an absolute move (R50). -/
theorem moveaWord_eq_iff {w : EventWord} {x y : Coord} {out : Bool} :
    0x02#8 ++ 0#1 ++ BitVec.ofBool out ++ 0#6 ++ x ++ y = w ↔
      0x02 = w.extractLsb' 32 8 ∧ false = w.getLsbD 31 ∧ out = w.getLsbD 30 ∧ 0 = w.extractLsb' 24 6 ∧
        x = w.extractLsb' 12 12 ∧ y = w.extractLsb' 0 12 := by
  rw [append_eq_iff, append_eq_extractLsb'_iff, append_eq_extractLsb'_iff, append_eq_extractLsb'_iff,
    append_eq_extractLsb'_iff, ofBool_eq_extractLsb'_iff, show 0#1 = BitVec.ofBool false from rfl,
    ofBool_eq_extractLsb'_iff]
  simp only [and_assoc, Nat.reduceAdd]
  rfl

/-- Format M of a relative move (R50): the bits between the flag and the deltas are two reserved fields. -/
theorem moverWord_eq_iff {w : EventWord} {dx dy : Byte} {out : Bool} :
    0x02#8 ++ 1#1 ++ BitVec.ofBool out ++ 0#14 ++ dx ++ dy = w ↔
      0x02 = w.extractLsb' 32 8 ∧ true = w.getLsbD 31 ∧ out = w.getLsbD 30 ∧ 0 = w.extractLsb' 24 6 ∧
        0 = w.extractLsb' 16 8 ∧ dx = w.extractLsb' 8 8 ∧ dy = w.extractLsb' 0 8 := by
  rw [append_eq_iff, append_eq_extractLsb'_iff, show 0#14 = 0#6 ++ 0#8 from rfl, append_eq_extractLsb'_iff,
    append_eq_extractLsb'_iff (x := 0#6), append_eq_extractLsb'_iff, append_eq_extractLsb'_iff,
    ofBool_eq_extractLsb'_iff, show 1#1 = BitVec.ofBool true from rfl, ofBool_eq_extractLsb'_iff]
  simp only [and_assoc, Nat.reduceAdd]
  rfl

/-- Formats B and S (R51, R52). -/
theorem byteWord_eq_iff {w : EventWord} {op b : Byte} :
    op ++ 0#24 ++ b = w ↔ op = w.extractLsb' 32 8 ∧ 0 = w.extractLsb' 8 24 ∧ b = w.extractLsb' 0 8 := by
  rw [append_eq_iff, append_eq_extractLsb'_iff]
  simp only [and_assoc, Nat.reduceAdd]
  rfl

/-- Format Z (R53). -/
theorem resetWord_eq_iff {w : EventWord} :
    0xFF#8 ++ 0#32 = w ↔ 0xFF = w.extractLsb' 32 8 ∧ 0 = w.extractLsb' 0 32 := by
  rw [append_eq_iff]
  rfl

/-! ### Event words -/

/-- A format whose reserved field is checked last: the field is 0. -/
theorem reserved_passed {n : Nat} {v : BitVec n} {e : DecodeError} {i j : Instr}
    (h : (if v ≠ 0 then .error e else .ok j) = Except.ok i) : 0 = v ∧ j = i := by
  obtain ⟨hv, h⟩ := guard_passed h
  exact ⟨(not_ne_iff.1 hv).symm, Except.ok.inj h⟩

/-- A word that decodes is the encoding of the instruction it decodes to: each branch of the decoder has read every field
of its format (R56). -/
theorem encode_of_decodeEvent {w : EventWord} {i : Instr} (h : decodeEvent w = .ok i) : encode i = .event w := by
  unfold decodeEvent at h
  dsimp only at h
  split at h
  case isTrue hop =>
    obtain ⟨hrsv, rfl⟩ := reserved_passed h
    exact congrArg Encoded.event (keyWord_eq_iff.2 ⟨hop.symm, hrsv, rfl, rfl⟩)
  split at h
  case isTrue hop =>
    obtain ⟨hrsv, rfl⟩ := reserved_passed h
    exact congrArg Encoded.event (keyWord_eq_iff.2 ⟨hop.symm, hrsv, rfl, rfl⟩)
  split at h
  case isTrue hop =>
    obtain ⟨hrsv, h⟩ := guard_passed h
    split at h
    case isTrue habs =>
      cases h
      exact congrArg Encoded.event
        (moveaWord_eq_iff.2 ⟨hop.symm, habs.symm, rfl, (not_ne_iff.1 hrsv).symm, rfl, rfl⟩)
    case isFalse hrel =>
      obtain ⟨hmid, rfl⟩ := reserved_passed h
      exact congrArg Encoded.event (moverWord_eq_iff.2 ⟨hop.symm, (Bool.eq_true_of_not_eq_false hrel).symm, rfl,
        (not_ne_iff.1 hrsv).symm, hmid, rfl, rfl⟩)
  split at h
  case isTrue hop =>
    obtain ⟨hrsv, rfl⟩ := reserved_passed h
    exact congrArg Encoded.event (byteWord_eq_iff.2 ⟨hop.symm, hrsv, rfl⟩)
  split at h
  case isTrue hop =>
    obtain ⟨hrsv, rfl⟩ := reserved_passed h
    exact congrArg Encoded.event (byteWord_eq_iff.2 ⟨hop.symm, hrsv, rfl⟩)
  split at h
  case isTrue hop =>
    obtain ⟨hrsv, rfl⟩ := reserved_passed h
    exact congrArg Encoded.event (byteWord_eq_iff.2 ⟨hop.symm, hrsv, rfl⟩)
  split at h
  case isTrue hop =>
    obtain ⟨hrsv, rfl⟩ := reserved_passed h
    exact congrArg Encoded.event (resetWord_eq_iff.2 ⟨hop.symm, hrsv⟩)
  case isFalse => cases h

/-- The encoding of an event decodes to it: its opcode selects the branch of its format, whose checks its zero fields
pass (R56). -/
theorem decodeEvent_of_encode {w : EventWord} {i : Instr} (h : encode i = .event w) : decodeEvent w = .ok i := by
  cases i with
  | keydown kc r | keyup kc r =>
    obtain ⟨hop, hrsv, rfl, rfl⟩ := keyWord_eq_iff.1 (Encoded.event.inj h)
    simp [decodeEvent, ← hop, ← hrsv]
  | movea x y out =>
    obtain ⟨hop, habs, rfl, hrsv, rfl, rfl⟩ := moveaWord_eq_iff.1 (Encoded.event.inj h)
    simp [decodeEvent, ← hop, ← hrsv, -BitVec.getLsbD_eq_getElem, ← habs]
  | mover dx dy out =>
    obtain ⟨hop, hrel, rfl, hrsv, hmid, rfl, rfl⟩ := moverWord_eq_iff.1 (Encoded.event.inj h)
    simp [decodeEvent, ← hop, ← hrsv, ← hmid, -BitVec.getLsbD_eq_getElem, ← hrel]
  | btndown b | btnup b | scroll b =>
    obtain ⟨hop, hrsv, rfl⟩ := byteWord_eq_iff.1 (Encoded.event.inj h)
    simp [decodeEvent, ← hop, ← hrsv]
  | reset =>
    obtain ⟨hop, hrsv⟩ := resetWord_eq_iff.1 (Encoded.event.inj h)
    simp [decodeEvent, ← hop, ← hrsv]
  | pktKbd | pktAbs | pktRel | pktRst | replyOk | replyErr => cases h

/-- Settles O2: the decoder reads every field of a format, and the formats of R49 to R53 are the concatenation of their
fields. -/
theorem eventDecodeInvertsEncode : Obligations.EventDecodeInvertsEncode :=
  fun _ _ => ⟨encode_of_decodeEvent, decodeEvent_of_encode⟩

/-! ### Packets -/

/-- A 16-bit value is that of its two bytes (R31). -/
theorem ofLe16_le16 (v : Word16) : ofLe16 (v.extractLsb' 0 8) (v.extractLsb' 8 8) = v :=
  append_eq_iff.2 ⟨rfl, rfl⟩

/-- Two bytes are those of their 16-bit value (R31). -/
theorem le16_ofLe16 (lo hi : Byte) : le16 (ofLe16 lo hi) = [lo, hi] := by
  obtain ⟨hhi, hlo⟩ := append_eq_iff.1 (rfl : hi ++ lo = hi ++ lo)
  rw [le16, ofLe16, ← hhi, ← hlo]

/-- The slots are the vector of the six of them. -/
theorem slots_eta (slots : Slots) : #v[slots[0], slots[1], slots[2], slots[3], slots[4], slots[5]] = slots :=
  Vector.toList_inj.1 (toList_slots slots).symm

/-- Bytes that decode to a packet begin with its encoding: the decoder has read every byte of its layout (R58 to R60). -/
theorem encode_of_decodePacket {bytes rest : List Byte} {i : Instr} (h : decodePacket bytes = .ok (i, rest)) :
    ∃ front, encode i = .packet front ∧ bytes = front ++ rest := by
  unfold decodePacket at h
  split at h
  case h_2 => cases h
  case h_1 h0 h1 h2 cmd len tail =>
  split at h
  case isFalse => cases h
  case isTrue hhdr =>
  obtain ⟨rfl, rfl, rfl⟩ : h0 = 0x57 ∧ h1 = 0xAB ∧ h2 = 0x00 := by simpa [hdr] using hhdr
  unfold decodePacketRest at h
  repeat' split at h
  all_goals cases h
  · simp_all [encode, kbdBody, frameBody, hdr]
  · simp_all [encode, absBody, frameBody, hdr, le16_ofLe16]
  · simp_all [encode, relBody, frameBody, hdr]
  · simp_all [encode, rstBody, frameBody, hdr]

/-- Bytes that begin with a packet's encoding decode to it (R58 to R60). -/
theorem decodePacket_of_encode {front rest : List Byte} {i : Instr} (h : encode i = .packet front) :
    decodePacket (front ++ rest) = .ok (i, rest) := by
  cases i with
  | pktKbd mod rsv slots cks =>
    cases h
    simp [kbdBody, frameBody, hdr, toList_slots, decodePacket, decodePacketRest, slots_eta]
  | pktAbs mode btn x y scr cks =>
    cases h
    simp [absBody, frameBody, hdr, le16, ofLe16_le16, decodePacket, decodePacketRest, cmdAbs, cmdKbd]
  | pktRel mode btn dx dy w cks =>
    cases h
    simp [relBody, frameBody, hdr, decodePacket, decodePacketRest, cmdAbs, cmdKbd, cmdRel]
  | pktRst cks =>
    cases h
    simp [rstBody, frameBody, hdr, decodePacket, decodePacketRest, cmdAbs, cmdKbd, cmdRel, cmdRst]
  | keydown | keyup | movea | mover | btndown | btnup | scroll | reset | replyOk | replyErr => cases h

/-- Settles O3: the decoder and the encoder follow the same four layouts (R94 to R97). -/
theorem packetDecodeInvertsEncode : Obligations.PacketDecodeInvertsEncode := by
  intro bytes rest i
  constructor
  · exact encode_of_decodePacket
  · rintro ⟨front, henc, rfl⟩
    exact decodePacket_of_encode henc

/-! ### Reply frames -/

/-- The frame of a code, a length byte and a payload of that length decodes to what its code, the payload's sum and the
checksum byte give (R61, R62). -/
theorem decodeReply_frame_iff {code len cks : Byte} {payload rest : List Byte} {i : Instr}
    (hlen : payload.length = len.toNat) :
    decodeReply ([0x57, 0xAB, 0x00, code, len] ++ payload ++ cks :: rest) = .ok (i, rest) ↔
      replyOfCode code len (checksum payload) cks = some i := by
  have hlong : ¬ (payload ++ cks :: rest).length ≤ len.toNat := by simp [hlen]
  have hpayload : (payload ++ cks :: rest).take len.toNat = payload := by rw [← hlen, List.take_left']; rfl
  have hcks : (payload ++ cks :: rest).getD len.toNat 0 = cks := by simp [List.getD_eq_getElem?_getD, ← hlen]
  have hrest : (payload ++ cks :: rest).drop (len.toNat + 1) = rest := by simp [← hlen, List.drop_append]
  simp only [List.cons_append, List.nil_append, decodeReply]
  rw [if_pos (show [0x57, 0xAB, 0x00] = hdr from rfl), if_neg hlong, hpayload, hcks, hrest]
  cases replyOfCode code len (checksum payload) cks <;> simp

/-- A success code's class and command (R62). -/
theorem replyOfCode_okCode (cmd : BitVec 6) (len paySum cks : Byte) :
    replyOfCode (okCode cmd) len paySum cks = some (.replyOk cmd len paySum cks) := by
  obtain ⟨hclass, hcmd⟩ := append_eq_iff.1 (rfl : 0b10#2 ++ cmd = 0b10#2 ++ cmd)
  rw [replyOfCode, okCode, ← hclass, ← hcmd, if_pos rfl]

/-- An error code's class and command (R62). -/
theorem replyOfCode_errCode (cmd : BitVec 6) (len paySum cks : Byte) :
    replyOfCode (errCode cmd) len paySum cks = some (.replyErr cmd len paySum cks) := by
  obtain ⟨hclass, hcmd⟩ := append_eq_iff.1 (rfl : 0b11#2 ++ cmd = 0b11#2 ++ cmd)
  rw [replyOfCode, errCode, ← hclass, ← hcmd, if_neg (by decide), if_pos rfl]

/-- The encoder's payload has the sum it is asked for, where a payload of that length can have it. -/
theorem checksum_replyPayload {len paySum : Byte} (h : (len != 0 || paySum == 0) = true) :
    checksum (replyPayload len paySum) = paySum := by
  have hzeros : ∀ n, checksum (List.replicate n 0) = 0 := fun n => by simp [checksum_eq]
  unfold replyPayload
  split
  · next hlen =>
    obtain rfl : len = 0 := BitVec.eq_of_toNat_eq hlen
    obtain rfl : paySum = 0 := by simpa using h
    rfl
  · rw [← List.singleton_append, checksum_append, hzeros]
    simp [checksum]

/-- The encoding of a reply instruction, where its payload sum can be one, decodes to it. -/
theorem decodeReply_replyBytes {code len paySum cks : Byte} {i : Instr} (h : (len != 0 || paySum == 0) = true)
    (hi : replyOfCode code len paySum cks = some i) : decodeReply (replyBytes code len paySum cks) = .ok (i, []) := by
  have hframe := decodeReply_frame_iff (code := code) (cks := cks) (rest := []) (i := i)
    (EncodedSize.replyPayload_length len paySum)
  rw [checksum_replyPayload h] at hframe
  exact hframe.2 hi

/-- Settles O1: events by O2, packets by O3 with no byte left over, and reply frames because the encoder's payload has the
sum that the instruction stands for. -/
theorem decodeOfEncodeIsTheInstruction : Obligations.DecodeOfEncodeIsTheInstruction := by
  intro i hwf
  cases henc : encode i with
  | event w => exact decodeEvent_of_encode henc
  | packet bytes =>
    have hdec : decodePacket bytes = .ok (i, []) := by simpa using decodePacket_of_encode (rest := []) henc
    simp [decode, hdec, Except.map]
  | reply bytes =>
    have hdec : decodeReply bytes = .ok (i, []) := by
      cases i <;> cases henc
      all_goals
        simp only [Instr.wellFormed, Bool.and_eq_true] at hwf
      · exact decodeReply_replyBytes hwf.1 (replyOfCode_okCode _ _ _ _)
      · exact decodeReply_replyBytes hwf.1 (replyOfCode_errCode _ _ _ _)
    simp [decode, hdec, Except.map]

/-- Settles O4: six closed words, each run through the decoder. -/
theorem tableWordsDecodeAsWritten : Obligations.TableWordsDecodeAsWritten := by
  unfold Obligations.TableWordsDecodeAsWritten
  decide

/-! ### Placed words (log entry 3) -/

/-- A packet's encoding has at most 14 bytes (R59). -/
theorem length_le_of_encode_packet {i : Instr} {bytes : List Byte} (h : encode i = .packet bytes) :
    bytes.length ≤ 14 := by
  cases i with
  | pktKbd mod rsv slots cks =>
    cases h
    exact (EncodedSize.pktKbd mod rsv slots cks).le
  | pktAbs | pktRel | pktRst =>
    cases h
    exact Nat.le_of_ble_eq_true rfl
  | keydown | keyup | movea | mover | btndown | btnup | scroll | reset | replyOk | replyErr => cases h

/-- A packet decodes from the first 14 bytes of a sequence that begins with it. -/
theorem decodePacket_take {bytes rest : List Byte} {i : Instr} (h : decodePacket bytes = .ok (i, rest)) :
    ∃ rest', decodePacket (bytes.take 14) = .ok (i, rest') := by
  obtain ⟨front, henc, rfl⟩ := encode_of_decodePacket h
  rw [List.take_append, List.take_of_length_le (length_le_of_encode_packet henc)]
  exact ⟨_, decodePacket_of_encode henc⟩

/-- A reply code gives one of the two reply instructions (R62). -/
theorem replyOfCode_eq_reply {code len paySum cks : Byte} {i : Instr} (h : replyOfCode code len paySum cks = some i) :
    ∃ cmd len paySum cks, i = .replyOk cmd len paySum cks ∨ i = .replyErr cmd len paySum cks := by
  unfold replyOfCode at h
  split at h
  · exact ⟨_, _, _, _, .inl (Option.some.inj h).symm⟩
  split at h
  · exact ⟨_, _, _, _, .inr (Option.some.inj h).symm⟩
  · cases h

/-- A decoded reply frame is one of the two reply instructions (R62). -/
theorem decodeReply_eq_reply {bytes rest : List Byte} {i : Instr} (h : decodeReply bytes = .ok (i, rest)) :
    ∃ cmd len paySum cks, i = .replyOk cmd len paySum cks ∨ i = .replyErr cmd len paySum cks := by
  unfold decodeReply at h
  repeat' split at h
  case h_1 hcode =>
    cases h
    exact replyOfCode_eq_reply hcode
  all_goals cases h

/-- What decodes from a table word decodes from it by one of the three encodings (log entry 8). -/
theorem decodeTableWord_cases {nbits w : Nat} {i : Instr} (h : decodeTableWord nbits w = some i) :
    decodeEvent (BitVec.ofNat 40 w) = .ok i ∨
    (∃ rest, decodePacket (tableBytes nbits w ++ List.replicate 14 0) = .ok (i, rest)) ∨
    ∃ rest, decodeReply (tableBytes nbits w ++ List.replicate 14 0) = .ok (i, rest) := by
  unfold decodeTableWord at h
  dsimp only at h
  split at h
  · next hevent => exact .inl (hevent.trans (congrArg _ (Option.some.inj h)))
  split at h
  · next hpacket => exact .inr (.inl ⟨_, by rw [hpacket, Option.some.inj h]⟩)
  split at h
  · next hreply => exact .inr (.inr ⟨_, by rw [hreply, Option.some.inj h]⟩)
  · cases h

/-- A state in which the next edge, no reset edge, fetches `i`, with the configuration and the device state of `s`. -/
def Placed (i : Instr) (s t : State) : Prop :=
  t.fetch = some i ∧ t.resetting = false ∧ t.cfg = s.cfg ∧ t.dev = s.dev

/-- A placed event word is fetched in IDLE. -/
theorem placed_placeEvent {w : EventWord} {i : Instr} (s : State) (h : decodeEvent w = .ok i) :
    Placed i s (placeEvent w s) :=
  ⟨by simp [placeEvent, State.fetch, h, Except.toOption], rfl, rfl, rfl⟩

/-- A placed packet is fetched in TX: it fills the buffer. -/
theorem placed_placePacket {bytes rest : List Byte} {i : Instr} (s : State) (hlen : bytes.length = 14)
    (h : decodePacket bytes = .ok (i, rest)) : Placed i s (placePacket bytes s) := by
  have hpkt : (placePacket bytes s).framer.pkt.toList = bytes := by
    rw [show (placePacket bytes s).framer.pkt = (loadPacket bytes s.framer).pkt from rfl, loadPacket_pkt _ _ hlen.le,
      hlen, List.drop_eq_nil_of_le (by simp), List.append_nil]
  refine ⟨?_, rfl, rfl, rfl⟩
  rw [State.fetch, show (placePacket bytes s).ctl.fsm = .tx from rfl]
  simp [hpkt, h, Except.map, Except.toOption]

/-- A placed reply frame is fetched in WAIT: its payload's sum is the running sum less the header's. -/
theorem placed_placeReply {code len paySum cks : Byte} {i : Instr} (s : State)
    (h : replyOfCode code len paySum cks = some i) : Placed i s (placeReply code len paySum cks s) :=
  ⟨by simp [State.fetch, placeReply, State.endingReply, State.frame, rxFrame, replySum, h], rfl, rfl, rfl⟩

/-- Settles O6: the table word decodes by one of the three encodings, and `placeWord` chooses the port by the instruction,
which tells the encoding. -/
theorem placedWordIsFetched : Obligations.PlacedWordIsFetched := by
  intro s nbits w i h
  change Placed i s (placeWord s nbits w)
  rcases decodeTableWord_cases h with hevent | ⟨rest, hpacket⟩ | ⟨rest, hreply⟩
  · have hplace : placeWord s nbits w = placeEvent (BitVec.ofNat 40 w) s := by
      have hi := decodeEvent_isEvent hevent
      cases i <;> first | cases hi; done | simp only [placeWord, h]
    exact hplace ▸ placed_placeEvent s hevent
  · have hplace : placeWord s nbits w = placePacket ((tableBytes nbits w ++ List.replicate 14 0).take 14) s := by
      have hi := decodePacket_isPacket hpacket
      cases i <;> first | cases hi; done | simp only [placeWord, h]
    obtain ⟨rest', hpacket'⟩ := decodePacket_take hpacket
    exact hplace ▸ placed_placePacket s (by simp) hpacket'
  · obtain ⟨cmd, len, paySum, cks, rfl | rfl⟩ := decodeReply_eq_reply hreply
    · simp only [placeWord, h]
      exact placed_placeReply s (replyOfCode_okCode cmd len paySum cks)
    · simp only [placeWord, h]
      exact placed_placeReply s (replyOfCode_errCode cmd len paySum cks)

end Sys2Proof.Proofs.RoundTrip
end

section
/-! The eight events (40_keyboard.md, 41_mouse.md, 42_system.md): the results of KEYUP, of the mouse events and of RESET as
state changes and packets, the change that calls for a keyboard report (R75), the one source of Suppressed (R78), and the
frame of the events. -/

namespace Sys2Proof.Proofs.EventEffects

open Sys2Proof Sys2Proof.Machine
open Sys2Proof.Proofs.Keyboard
open Sys2Proof.Proofs.Mouse
open Sys2Proof.Proofs.Framer

/-! ### KEYUP of a non-modifier key (R74) -/

/-- KEYUP of a keycode without a mapping. -/
theorem keyup_unmapped {c : Config} {d : Device} {kc : Byte} {r : Bool} (hm : modmap c kc = none)
    (hk : keymap c kc r = none) : keyup c d kc r = .error .unsupportedKey := by
  simp only [keyup, hm, hk]

/-- KEYUP of a key that no slot holds. -/
theorem keyup_not_held {c : Config} {d : Device} {kc u : Byte} {r : Bool} (hm : modmap c kc = none)
    (hk : keymap c kc r = some u) (h : findSlot d.kbd.kbdSlot u = none) : keyup c d kc r = .noSend d := by
  simp only [keyup, hm, hk, h]

/-- Settles O17: the search for the event's usage decides between the no-op and the report, and the slot that it finds is
the first of those that hold it (log entry 13). -/
theorem keyupOfKeyEmptiesItsSlot : Obligations.KeyupOfKeyEmptiesItsSlot := by
  intro s kc r hm
  rw [exec_keyup]
  refine ⟨fun hk => ?unmapped, fun u hk => ⟨fun hnone => ?notHeld, fun i hi hfirst => ?held⟩⟩
  case unmapped => rw [keyup_unmapped hm hk, commit_error]
  case notHeld => rw [keyup_not_held hm hk (findSlot_eq_none hnone), commit_noSend]
  case held =>
    rw [keyup_held hm hk (findSlot_eq_some hi hfirst)]
    refine ⟨_, setSlot s.dev.kbd.kbdSlot i 0x00, rfl, ?_, fun j hj => ?_, commit_send_kbd s _⟩
    · rw [getElem_setSlot, if_pos rfl]
    · rw [getElem_setSlot, if_neg hj.symm]

/-! ### The change that calls for a keyboard report (R75) -/

/-- The results of a key event: a report with another keyboard state, a no-op, or one of the two rejections. -/
inductive KeyResult (d : Device) : EventResult → Prop
  | report (d' : Device) (h : d'.kbd ≠ d.kbd) : KeyResult d (.send d' .kbd)
  | noop : KeyResult d (.noSend d)
  | unsupported : KeyResult d (.error .unsupportedKey)
  | exhausted : KeyResult d (.error .keyboardSlotsExhausted)

/-- Writing another value into a slot changes the keyboard state. -/
theorem withSlot_ne {k : Keyboard} {i : Fin 6} {v : Byte} (h : k.kbdSlot[i] ≠ v) : k.withSlot i v ≠ k := by
  intro heq
  have hslot : (k.withSlot i v).kbdSlot[i] = k.kbdSlot[i] := by rw [heq]
  rw [withSlot_kbdSlot, getElem_setSlot, if_pos rfl] at hslot
  exact h hslot.symm

/-- KEYDOWN sends exactly where it sets a clear bit or fills a slot with a usage that none held. -/
theorem keydown_keyResult (c : Config) (d : Device) (kc : Byte) (r : Bool) : KeyResult d (keydown c d kc r) := by
  rcases keydown_cases c d kc r with ⟨m, -, -, h⟩ | ⟨m, -, hne, h⟩ | ⟨-, -, h⟩ | ⟨u, i, -, -, -, h⟩ |
    ⟨u, i, -, -, hf, -, h⟩ | ⟨u, -, -, -, -, h⟩ <;> rw [h]
  · exact .noop
  · exact .report _ fun heq => hne (congrArg Keyboard.kbdMod heq)
  · exact .unsupported
  · exact .noop
  · exact .report _ (withSlot_ne (findSlot_none hf i))
  · exact .exhausted

/-- KEYUP sends exactly where it clears a set bit or empties a slot; a legal configuration maps no key to the empty slot's
value. -/
theorem keyup_keyResult {c : Config} (hl : legalConfig c = true) (d : Device) (kc : Byte) (r : Bool) :
    KeyResult d (keyup c d kc r) := by
  rcases keyup_cases c d kc r with ⟨m, -, -, h⟩ | ⟨m, -, hne, h⟩ | ⟨-, -, h⟩ | ⟨u, i, -, hk, hf, h⟩ |
    ⟨u, -, -, -, h⟩ <;> rw [h]
  · exact .noop
  · exact .report _ fun heq => hne (congrArg Keyboard.kbdMod heq)
  · exact .unsupported
  · refine .report _ (withSlot_ne ?_)
    rw [(findSlot_some hf).1]
    rintro rfl
    exact keymap_ne_zero hl kc r hk
  · exact .noop

/-- Committing a key event's result: the report's command byte stands exactly for a changed keyboard state. -/
theorem commit_keyResult {s : State} {r : EventResult} (h : KeyResult s.dev r) :
    ((commit s r).ctl.cmplCmd = 0x02 ↔ (commit s r).dev.kbd ≠ s.dev.kbd) ∧
    ((commit s r).dev.kbd = s.dev.kbd → commit s r = completedAs s.dev (commit s r).ctl.cmplStatus 0x00 s ∧
      (commit s r).ctl.cmplStatus ∈ [.ok, .unsupportedKey, .keyboardSlotsExhausted]) := by
  cases h with
  | report d' hne =>
    obtain ⟨hdev, hcmd⟩ := commit_send_dev_cmplCmd s d' .kbd
    rw [hdev, hcmd]
    exact ⟨iff_of_true rfl hne, fun heq => absurd heq hne⟩
  | noop | unsupported | exhausted =>
    have hcmd : (0x00 : Byte) ≠ 0x02 := by decide
    exact ⟨iff_of_false hcmd fun hne => hne rfl, fun _ => ⟨rfl, by simp [commit]⟩⟩

/-- Settles O19: a key event's result is a report exactly where the keyboard state changes. -/
theorem keyboardReportExactlyOnChange : Obligations.KeyboardReportExactlyOnChange := by
  rintro s t kc r hl (hexec | hexec)
  · rw [exec_keydown] at hexec
    cases hexec
    exact commit_keyResult (keydown_keyResult s.cfg s.dev kc r)
  · rw [exec_keyup] at hexec
    cases hexec
    exact commit_keyResult (keyup_keyResult hl s.dev kc r)

/-! ### The mouse events (R79 to R84) -/

section

variable (s : State) (i : Instr) {d : Device}

/-- An event with this result commits it. -/
theorem exec_of_result {r : EventResult} (hr : eventResult i s.cfg s.dev = some r) : exec i s = .next (commit s r) := by
  obtain ⟨t, ht⟩ := exec_next i s
  rw [ht, eq_commit_of_exec ht hr]

/-- An event that calls for the absolute packet sends the report of R95. -/
theorem sentFrom_abs (hr : eventResult i s.cfg s.dev = some (.send d .abs)) :
    ∃ t, exec i s = .next t ∧ SentFrom d 0x04 (absReport d.mouse.msBtn d.mouse.msX.toNat d.mouse.msY.toNat) s t := by
  rw [← buildPacket_abs]
  exact ⟨_, exec_of_result s i hr, commit_send s d .abs⟩

/-- An event that calls for the relative packet sends the report of R96. -/
theorem sentFrom_rel {dx dy w : Byte} (hr : eventResult i s.cfg s.dev = some (.send d (.rel dx dy w))) :
    ∃ t, exec i s = .next t ∧ SentFrom d 0x05 (relReport d.mouse.msBtn dx dy w) s t := by
  rw [← buildPacket_rel]
  exact ⟨_, exec_of_result s i hr, commit_send s d (.rel dx dy w)⟩

end

/-- Settles O20: the guard decides, and the absolute packet is built from the position just stored. -/
theorem moveaStoresPositionAndSends : Obligations.MoveaStoresPositionAndSends := by
  intro s x y out
  constructor
  · rintro ⟨hg, rfl⟩
    exact exec_of_result s (.movea x y true) (congrArg some (movea_suppress hg x y))
  · intro h
    rw [← zextCoord_toNat x, ← zextCoord_toNat y, BitVec.ofNat_toNat, BitVec.ofNat_toNat, BitVec.setWidth_eq,
      BitVec.setWidth_eq]
    exact sentFrom_abs s (.movea x y out) (congrArg some (movea_send h x y))

/-- Settles O21: the guard decides, and the relative packet carries the event's deltas and a wheel byte of 0. -/
theorem moverSendsRemappedDeltas : Obligations.MoverSendsRemappedDeltas := by
  intro s dx dy out
  constructor
  · rintro ⟨hg, rfl⟩
    exact exec_of_result s (.mover dx dy true) (congrArg some (mover_suppress hg dx dy))
  · intro h
    exact sentFrom_rel s (.mover dx dy out) (congrArg some (mover_send h dx dy))

/-- A button's mask has bit `btn - 1` and no other (R51). -/
theorem getLsbD_buttonMask {btn : Byte} (hb : 1 ≤ btn.toNat) {k : Nat} (hk : k < 8) :
    (buttonMask btn).getLsbD k = decide (k + 1 = btn.toNat) := by
  rw [buttonMask, getLsbD_one_shiftLeft _ _ hk]
  exact decide_eq_decide.2 (by omega)

/-- Settles O23: the index check and the guard decide in that order, and or-ing in the mask sets the button's bit alone. -/
theorem btndownSetsItsBit : Obligations.BtndownSetsItsBit := by
  intro s btn
  refine ⟨fun hbad => exec_of_result s (.btndown btn) (congrArg some (btndown_error (by omega))), fun hb => ⟨fun ⟨hg, ho⟩ =>
    exec_of_result s (.btndown btn) (congrArg some (btndown_suppress hb hg ho)), fun h => ?_⟩⟩
  obtain ⟨t, hexec, hsent⟩ := sentFrom_rel s (.btndown btn) (congrArg some (btndown_send (d := s.dev) hb h))
  refine ⟨t, _, hexec, fun k hk => ?_, hsent⟩
  rw [BitVec.getLsbD_or, getLsbD_buttonMask hb.1 hk]

/-- Settles O24: the index check and the guard decide in that order; index 0 clears every bit, and masking out a button's
mask clears its bit alone. -/
theorem btnupClearsItsBitOrAll : Obligations.BtnupClearsItsBitOrAll := by
  intro s btn
  refine ⟨fun hbad => exec_of_result s (.btnup btn) (congrArg some (btnup_error hbad)), fun hb => ⟨fun ⟨hg, ho⟩ =>
    exec_of_result s (.btnup btn) (congrArg some (btnup_suppress hb hg ho)), fun h => ?_⟩⟩
  obtain ⟨t, hexec, hsent⟩ := sentFrom_rel s (.btnup btn) (congrArg some (btnup_send (d := s.dev) hb h))
  refine ⟨t, _, hexec, fun k hk => ?_, hsent⟩
  by_cases h0 : btn = 0
  · simp [h0]
  · have hpos : 1 ≤ btn.toNat := Nat.pos_of_ne_zero fun hz => h0 (BitVec.eq_of_toNat_eq hz)
    rw [if_neg h0, BitVec.getLsbD_and, BitVec.getLsbD_not, getLsbD_buttonMask hpos hk, decide_eq_true hk,
      decide_eq_false h0, Bool.true_and, Bool.not_false, Bool.and_true]

/-- Settles O25: after the guard the tilt's sign chooses between the no-op and the two wheel bytes. -/
theorem scrollSendsWheelByte : Obligations.ScrollSendsWheelByte := by
  intro s tilt
  refine ⟨fun ⟨hg, ho⟩ => exec_of_result s (.scroll tilt) (congrArg some (scroll_suppress hg ho)), fun h =>
    ⟨fun hzero => ?zero, fun hneg => ?negative, fun hpos => ?positive⟩⟩
  case zero =>
    obtain rfl : tilt = 0 := BitVec.eq_of_toInt_eq hzero
    exact exec_of_result s (.scroll 0) (congrArg some (scroll_noSend h))
  case negative =>
    have hne : tilt ≠ 0 := fun h0 => by simp [h0] at hneg
    rw [← wheel_of_neg s.cfg hneg]
    exact sentFrom_rel s (.scroll tilt) (congrArg some (scroll_send h hne))
  case positive =>
    have hne : tilt ≠ 0 := fun h0 => by simp [h0] at hpos
    rw [← wheel_toNat_of_nonneg s.cfg hpos.le, BitVec.ofNat_toNat, BitVec.setWidth_eq]
    exact sentFrom_rel s (.scroll tilt) (congrArg some (scroll_send h hne))

/-! ### RESET (R87) -/

/-- Settles O29: the packet that RESET calls for has no operand, so it is the six bytes of R97. -/
theorem resetEventClearsDeviceState : Obligations.ResetEventClearsDeviceState :=
  fun s => ⟨_, rfl, commit_send s _ .rst⟩

/-! ### Everything that a mouse event can answer (R86) -/

section

variable (c : Config) (d : Device)

/-- MOVEA is suppressed, or stores the position and sends (R79). -/
theorem movea_cases (x y : Coord) (out : Bool) :
    (c.oobGuard = true ∧ movea c d x y out = .suppress { d with oob := true }) ∨
    movea c d x y out =
      .send { d with mouse := { d.mouse with msX := zextCoord x, msY := zextCoord y }
                     oob := if c.oobGuard then false else d.oob } .abs := by
  rcases guardMove_cases c d out with ⟨hg, rfl, -⟩ | ⟨-, hin, -⟩ | ⟨hg, -⟩
  · exact .inl ⟨hg, movea_suppress hg x y⟩
  · exact .inr (movea_send (.inr hin) x y)
  · exact .inr (movea_send (.inl hg) x y)

/-- MOVER is suppressed, or sends (R80). -/
theorem mover_cases (dx dy : Byte) (out : Bool) :
    (c.oobGuard = true ∧ mover c d dx dy out = .suppress { d with oob := true }) ∨
    mover c d dx dy out = .send { d with oob := if c.oobGuard then false else d.oob } (.rel dx dy 0x00) := by
  rcases guardMove_cases c d out with ⟨hg, rfl, -⟩ | ⟨-, hin, -⟩ | ⟨hg, -⟩
  · exact .inl ⟨hg, mover_suppress hg dx dy⟩
  · exact .inr (mover_send (.inr hin) dx dy)
  · exact .inr (mover_send (.inl hg) dx dy)

/-- BTNDOWN is rejected, suppressed, or sets a button's bit and sends (R81). -/
theorem btndown_cases (btn : Byte) :
    btndown c d btn = .error .invalidOpcode ∨
    (c.oobGuard = true ∧ d.oob = true ∧ btndown c d btn = .suppress d) ∨
    ((1 ≤ btn.toNat ∧ btn.toNat ≤ 3) ∧ btndown c d btn =
      .send { d with mouse := { d.mouse with msBtn := d.mouse.msBtn ||| buttonMask btn } } (.rel 0x00 0x00 0x00)) := by
  by_cases hb : 1 ≤ btn.toNat ∧ btn.toNat ≤ 3
  · rcases guardOther_cases c d with ⟨hg, ho, -⟩ | ⟨hpass, -⟩
    · exact .inr (.inl ⟨hg, ho, btndown_suppress hb hg ho⟩)
    · exact .inr (.inr ⟨hb, btndown_send hb hpass⟩)
  · exact .inl (btndown_error hb)

/-- BTNUP is rejected, suppressed, or clears a button's bit, or all, and sends (R82). -/
theorem btnup_cases (btn : Byte) :
    btnup c d btn = .error .invalidOpcode ∨
    (c.oobGuard = true ∧ d.oob = true ∧ btnup c d btn = .suppress d) ∨
    btnup c d btn =
      .send { d with mouse := { d.mouse with
          msBtn := if btn = 0 then 0x00 else d.mouse.msBtn &&& ~~~buttonMask btn } } (.rel 0x00 0x00 0x00) := by
  by_cases hb : btn.toNat ≤ 3
  · rcases guardOther_cases c d with ⟨hg, ho, -⟩ | ⟨hpass, -⟩
    · exact .inr (.inl ⟨hg, ho, btnup_suppress hb hg ho⟩)
    · exact .inr (.inr (btnup_send hb hpass))
  · exact .inl (btnup_error (Nat.lt_of_not_le hb))

/-- SCROLL is suppressed, a no-op, or sends (R83). -/
theorem scroll_cases (tilt : Byte) :
    (c.oobGuard = true ∧ d.oob = true ∧ scroll c d tilt = .suppress d) ∨
    scroll c d tilt = .noSend d ∨
    scroll c d tilt = .send d (.rel 0x00 0x00 (wheel c tilt)) := by
  rcases guardOther_cases c d with ⟨hg, ho, -⟩ | ⟨hpass, -⟩
  · exact .inl ⟨hg, ho, scroll_suppress hg ho⟩
  · by_cases h0 : tilt = 0
    · exact .inr (.inl (h0 ▸ scroll_noSend hpass))
    · exact .inr (.inr (scroll_send hpass h0))

end

/-! ### The one source of Suppressed (R78) -/

/-- A result that completes Suppressed: the guard's answer, or a rejection with that status. -/
def Suppresses : EventResult → Prop
  | .error st => st = .suppressed
  | .noSend _ => False
  | .suppress _ => True
  | .send _ _ => False

/-- Committing a result records Suppressed only where the result is one of these (R107). -/
theorem suppresses_of_cmplStatus {s : State} {r : EventResult} (h : (commit s r).ctl.cmplStatus = .suppressed) :
    Suppresses r := by
  cases r with
  | error st => exact h
  | noSend d => cases h
  | suppress d => trivial
  | send d p =>
    rcases sendPacket_cases p.cmd (buildPacket d p) { s with dev := d } with ⟨-, hsent⟩ | ⟨-, hclosed⟩
    · rw [commit, hsent] at h
      cases h
    · rw [commit, hclosed] at h
      cases h

section

variable {c : Config} {d : Device}

/-- No key event is suppressed. -/
theorem not_suppresses_of_keyResult {r : EventResult} (h : KeyResult d r) : ¬ Suppresses r := by
  cases h <;> simp [Suppresses]

/-- KEYUP is not suppressed. -/
theorem not_suppresses_keyup (kc : Byte) (r : Bool) : ¬ Suppresses (keyup c d kc r) := by
  rcases keyup_cases c d kc r with ⟨m, -, -, h⟩ | ⟨m, -, -, h⟩ | ⟨-, -, h⟩ | ⟨u, i, -, -, -, h⟩ |
    ⟨u, -, -, -, h⟩ <;> simp [h, Suppresses]

/-- The guard of a button or scroll event suppresses where `oob` is already set, so it changes nothing. -/
theorem suppress_self_of_oob (ho : d.oob = true) : EventResult.suppress d = .suppress { d with oob := true } := by
  rw [← ho]

/-- Only a mouse event with the guard on has a result that completes Suppressed, and it leaves `oob` set and no other
change. -/
theorem eventResult_of_suppresses {i : Instr} {r : EventResult} (hr : eventResult i c d = some r) (hs : Suppresses r) :
    isMouse i = true ∧ c.oobGuard = true ∧ r = .suppress { d with oob := true } := by
  cases i with
  | keydown kc side =>
    cases hr
    exact absurd hs (not_suppresses_of_keyResult (keydown_keyResult c d kc side))
  | keyup kc side =>
    cases hr
    exact absurd hs (not_suppresses_keyup kc side)
  | movea x y out =>
    cases hr
    rcases movea_cases c d x y out with ⟨hg, h⟩ | h
    · exact ⟨rfl, hg, h⟩
    · simp [h, Suppresses] at hs
  | mover dx dy out =>
    cases hr
    rcases mover_cases c d dx dy out with ⟨hg, h⟩ | h
    · exact ⟨rfl, hg, h⟩
    · simp [h, Suppresses] at hs
  | btndown btn =>
    cases hr
    rcases btndown_cases c d btn with h | ⟨hg, ho, h⟩ | ⟨-, h⟩
    · simp [h, Suppresses] at hs
    · exact ⟨rfl, hg, h.trans (suppress_self_of_oob ho)⟩
    · simp [h, Suppresses] at hs
  | btnup btn =>
    cases hr
    rcases btnup_cases c d btn with h | ⟨hg, ho, h⟩ | h
    · simp [h, Suppresses] at hs
    · exact ⟨rfl, hg, h.trans (suppress_self_of_oob ho)⟩
    · simp [h, Suppresses] at hs
  | scroll tilt =>
    cases hr
    rcases scroll_cases c d tilt with ⟨hg, ho, h⟩ | h | h
    · exact ⟨rfl, hg, h.trans (suppress_self_of_oob ho)⟩
    · simp [h, Suppresses] at hs
    · simp [h, Suppresses] at hs
  | reset =>
    cases hr
    exact hs.elim
  | pktKbd | pktAbs | pktRel | pktRst | replyOk | replyErr => cases hr

end

/-- Settles O28: the status Suppressed comes from the guard's answer alone, and only mouse events ask the guard. -/
theorem onlyGuardedMouseEventsAreSuppressed : Obligations.OnlyGuardedMouseEventsAreSuppressed := by
  intro s t i hevent hexec hst
  obtain ⟨r, hr, -⟩ := exec_event hevent s
  obtain rfl := eq_commit_of_exec hexec hr
  obtain ⟨hmouse, hg, rfl⟩ := eventResult_of_suppresses hr (suppresses_of_cmplStatus hst)
  exact ⟨hmouse, hg, rfl, rfl⟩

/-! ### The frame of the events -/

/-- What an event leaves of the device state: a mouse event the keyboard state; the others `oob`; a key event the mouse
state; and each mouse event the registers that it does not write. -/
structure DeviceFrame (i : Instr) (d d' : Device) : Prop where
  kbd : isMouse i = true → d'.kbd = d.kbd
  oob : isMouse i = false → d'.oob = d.oob
  mouse : isMouse i = false → i ≠ .reset → d'.mouse = d.mouse
  movea : ∀ x y out, i = .movea x y out → d'.mouse.msBtn = d.mouse.msBtn
  mover : ∀ dx dy out, i = .mover dx dy out → d'.mouse = d.mouse
  scroll : ∀ tilt, i = .scroll tilt → d' = d
  button : ∀ b, (i = .btndown b ∨ i = .btnup b) →
    d'.mouse.msX = d.mouse.msX ∧ d'.mouse.msY = d.mouse.msY ∧ d'.oob = d.oob

/-- An event that changes nothing keeps this frame. -/
theorem DeviceFrame.refl (i : Instr) (d : Device) : DeviceFrame i d d :=
  ⟨fun _ => rfl, fun _ => rfl, fun _ _ => rfl, fun _ _ _ _ => rfl, fun _ _ _ _ => rfl, fun _ _ => rfl,
    fun _ _ => ⟨rfl, rfl, rfl⟩⟩

/-- Every event keeps this frame, whatever it answers. -/
theorem eventResult_deviceFrame {c : Config} {d : Device} {i : Instr} {r : EventResult}
    (hr : eventResult i c d = some r) : DeviceFrame i d (r.device d) := by
  cases i with
  | keydown kc side =>
    cases hr
    rcases keydown_cases c d kc side with ⟨m, -, -, h⟩ | ⟨m, -, -, h⟩ | ⟨-, -, h⟩ | ⟨u, i, -, -, -, h⟩ |
      ⟨u, i, -, -, -, -, h⟩ | ⟨u, -, -, -, -, h⟩ <;> rw [h] <;> constructor <;> simp [EventResult.device, isMouse]
  | keyup kc side =>
    cases hr
    rcases keyup_cases c d kc side with ⟨m, -, -, h⟩ | ⟨m, -, -, h⟩ | ⟨-, -, h⟩ | ⟨u, i, -, -, -, h⟩ |
      ⟨u, -, -, -, h⟩ <;> rw [h] <;> constructor <;> simp [EventResult.device, isMouse]
  | movea x y out =>
    cases hr
    rcases movea_cases c d x y out with ⟨-, h⟩ | h <;> rw [h] <;> constructor <;> simp [EventResult.device, isMouse]
  | mover dx dy out =>
    cases hr
    rcases mover_cases c d dx dy out with ⟨-, h⟩ | h <;> rw [h] <;> constructor <;> simp [EventResult.device, isMouse]
  | btndown btn =>
    cases hr
    rcases btndown_cases c d btn with h | ⟨-, -, h⟩ | ⟨-, h⟩ <;> rw [h] <;> constructor <;>
      simp [EventResult.device, isMouse]
  | btnup btn =>
    cases hr
    rcases btnup_cases c d btn with h | ⟨-, -, h⟩ | h <;> rw [h] <;> constructor <;>
      simp [EventResult.device, isMouse]
  | scroll tilt =>
    cases hr
    rcases scroll_cases c d tilt with ⟨-, -, h⟩ | h | h <;> rw [h] <;> exact .refl _ d
  | reset =>
    cases hr
    constructor <;> simp [EventResult.device, isMouse, softReset]
  | pktKbd | pktAbs | pktRel | pktRst | replyOk | replyErr => cases hr

/-- A packet fits the buffer (R22, R59). -/
theorem buildPacket_length_le (d : Device) (p : PacketCall) : (buildPacket d p).length ≤ 14 := by
  rw [buildPacket_length]
  cases p <;> simp

/-- `pkt_len` holds a packet's length (R22, R100). -/
theorem buildPacket_length_toNat (d : Device) (p : PacketCall) :
    (BitVec.ofNat 4 (buildPacket d p).length).toNat = (buildPacket d p).length := by
  rw [BitVec.toNat_ofNat, Nat.mod_eq_of_lt (Nat.lt_of_le_of_lt (buildPacket_length_le d p) (by decide))]

/-- Committing a result ends in TX with a packet loaded over the front of the buffer, or in DONE with the framer as it
was (R100, R107). -/
theorem commit_framer (s : State) (r : EventResult) :
    ((commit s r).ctl.fsm = .tx ∧ (commit s r).framer.txIdx = 0 ∧
      (commit s r).framer.pkt.toList.drop (commit s r).framer.pktLen.toNat =
        s.framer.pkt.toList.drop (commit s r).framer.pktLen.toNat) ∨
    ((commit s r).ctl.fsm = .done ∧ (commit s r).framer = s.framer) := by
  cases r with
  | error st => exact .inr ⟨rfl, rfl⟩
  | noSend d => exact .inr ⟨rfl, rfl⟩
  | suppress d => exact .inr ⟨rfl, rfl⟩
  | send d p =>
    cases hlink : s.pins.linkUp with
    | false => rw [(commit_send s d p).2 hlink]; exact .inr ⟨rfl, rfl⟩
    | true =>
      obtain ⟨hpkt, heq⟩ := (commit_send s d p).1 hlink
      have hlen : (commit s (.send d p)).framer.pktLen.toNat = (buildPacket d p).length := by
        rw [heq, buildPacket_length_toNat]
      refine .inl ⟨commit_send_open_tx hlink d p, by rw [heq], ?_⟩
      rw [hlen, hpkt, List.drop_left']
      rfl

/-- Settles O53: committing a result changes the device state to the result's and nothing else but the framer and the
completion record, and each event's results keep its frame. -/
theorem eventsLeaveTheRestUnchanged : Obligations.EventsLeaveTheRestUnchanged := by
  intro s t i hevent hexec
  obtain ⟨r, hr, -⟩ := exec_event hevent s
  obtain rfl := eq_commit_of_exec hexec hr
  obtain ⟨hcfg, hdev, hrx, hinputs, hedge, hcmd, htimer⟩ := commit_frame s r
  obtain ⟨hkbd, hoob, hmouse, hmovea, hmover, hscroll, hbutton⟩ := eventResult_deviceFrame hr
  rw [hdev]
  rcases commit_framer s r with ⟨htx, hidx, hdrop⟩ | ⟨hdone, hframer⟩
  · have hndone : (commit s r).ctl.fsm ≠ .done := by rw [htx]; nofun
    exact ⟨hcfg, hrx, hinputs, hedge, hcmd, htimer, .inl htx, fun h => absurd h hndone, fun _ => ⟨hidx, hdrop⟩,
      hkbd, hoob, hmouse, hmovea, hmover, hscroll, hbutton⟩
  · have hntx : (commit s r).ctl.fsm ≠ .tx := by rw [hdone]; nofun
    exact ⟨hcfg, hrx, hinputs, hedge, hcmd, htimer, .inr hdone, fun _ => hframer, fun h => absurd h hntx,
      hkbd, hoob, hmouse, hmovea, hmover, hscroll, hbutton⟩

end Sys2Proof.Proofs.EventEffects
end

section
/-! The edge as a whole (70_reset_and_hazards.md, 10_state.md): legal configurations (R2, R3, R5), the fetched instruction
(R133), the reset edge (R128 to R130), the ports (R14, R40), and what an edge leaves alone (R29, R107). -/

namespace Sys2Proof.Proofs.Edge

open Sys2Proof Sys2Proof.Machine
open Sys2Proof.Proofs.Correlator

/-! ### Configurations -/

/-- The legal configurations are those in the ranges of R2, R3 and R5. -/
theorem legalConfig_iff (c : Config) :
    legalConfig c = true ↔ 1 ≤ c.scrollSens.toNat ∧ c.scrollSens.toNat ≤ 0x7E ∧ 1 ≤ c.tReply ∧
      (∀ (kc : Byte) (r : Bool), keymap c kc r ≠ some 0x00) ∧ keymap c 65 false = some 0x04 ∧
      modmap c 65 = none ∧ modmap c 17 = some .ctrl := by
  have htables : (tableLegal c.keymapLeft = true ∧ tableLegal c.keymapRight = true) ↔
      ∀ (kc : Byte) (r : Bool), keymap c kc r ≠ some 0x00 := by
    rw [tableLegal_iff, tableLegal_iff]
    exact ⟨fun ⟨hleft, hright⟩ kc r => match r with | false => hleft kc | true => hright kc,
      fun h => ⟨fun kc => h kc false, fun kc => h kc true⟩⟩
  simp only [legalConfig, Bool.and_eq_true, decide_eq_true_eq, beq_iff_eq, ← htables, and_assoc]

/-- Settles O11: the step refuses exactly where `legalConfig` fails, and every other step answers a next state. -/
theorem illegalConfigurationIsRefused : Obligations.IllegalConfigurationIsRefused := by
  intro s
  rw [← legalConfig_iff, Bool.not_eq_true]
  rcases step_cases s with ⟨hl, h⟩ | ⟨hl, -, h⟩ | ⟨hl, -, i, t, -, -, h⟩ | ⟨hl, -, -, h⟩ <;> rw [h, hl] <;> simp

/-- Settles O59: the ranges are closed facts, and the maps are checked keycode by keycode. -/
theorem defaultMapsAreLegalAndDisjoint : Obligations.DefaultMapsAreLegalAndDisjoint := by
  refine ⟨by decide, fun kc => ⟨rfl, ?_, ?_⟩⟩
  · obtain ⟨-, -, -, hmaps, -⟩ := (legalConfig_iff standardConfig).1 (by decide)
    exact hmaps kc false
  · revert kc
    decide

/-- A step with a legal configuration answers a next state. -/
theorem step_next_of_legal {s : State} (hl : legalConfig s.cfg = true) : ∃ t, step s = .next t := by
  rcases step_cases s with ⟨hill, -⟩ | ⟨-, -, h⟩ | ⟨-, -, i, t, -, -, h⟩ | ⟨-, -, -, h⟩
  · cases hl.symm.trans hill
  · exact ⟨_, h⟩
  · exact ⟨_, h⟩
  · exact ⟨_, h⟩

/-- Settles O49: no control part of an edge writes the configuration, and a reset edge keeps it. -/
theorem configurationNeverChanges : Obligations.ConfigurationNeverChanges := by
  intro s t h
  rcases step_next_cases h with ⟨-, -, rfl⟩ | ⟨-, -, -, rfl⟩ | ⟨-, -, -, r, rfl, -⟩ | ⟨-, -, rfl⟩ | ⟨-, -, rfl⟩ |
    ⟨-, -, rfl⟩
  · rfl
  · rfl
  · exact (commit_frame s r).1
  · exact (txEdge_frame s).1
  · exact (waitEdge_frame s.frame s).1
  · rfl

/-- A run of one edge more that answers a next state has taken a step and run on from it. -/
theorem runEdges_succ_next {n : Nat} {s t : State} (h : runEdges (n + 1) s = .next t) :
    ∃ u, step s = .next u ∧ runEdges n u = .next t := by
  cases hstep : step s with
  | next u => exact ⟨u, rfl, (runEdges_succ hstep).symm.trans h⟩
  | fault f => cases f
  | refused r =>
    simp only [runEdges, Host.Core.run] at h
    rw [show Sys2Proof.core.step s = step s from rfl, hstep] at h
    cases h

/-- Settles O12: the configuration stays legal, so every step of the run answers a next state. -/
theorem legalConfigurationNeverStops : Obligations.LegalConfigurationNeverStops := by
  intro n
  induction n with
  | zero => exact fun s _ => ⟨s, rfl, rfl⟩
  | succ n ih =>
    intro s hl
    obtain ⟨u, hu⟩ := step_next_of_legal hl
    have hcfg : u.cfg = s.cfg := configurationNeverChanges s u hu
    obtain ⟨t, hrun, ht⟩ := ih u (hcfg ▸ hl)
    exact ⟨t, (runEdges_succ hu).trans hrun, ht.trans hcfg⟩

/-! ### The fetched instruction (R133) -/

/-- The model's sum of bytes is the whole-number sum modulo 256 (R91). -/
theorem additive_eq_checksum (bytes : List Byte) : additive bytes = checksum bytes := (checksum_eq bytes).symm

/-- Settles O5: each of the three clauses says what `fetch` reads in its control state. -/
theorem stepRunsTheFetchedInstruction : Obligations.StepRunsTheFetchedInstruction := by
  rintro s t i hrun hexec (⟨hidle, hv, hdec⟩ | ⟨htx, rest, hdec⟩ | ⟨hwait, hv, hsum, hcode⟩) <;>
    refine step_of_fetch hrun ?_ hexec
  · simp [State.fetch, hidle, hv, hdec, Except.toOption]
  · simp [State.fetch, htx, hdec, Except.map, Except.toOption]
  · simp only [State.fetch, hwait, State.endingReply, frame_of_sum hv hsum]
    exact additive_eq_checksum _ ▸ hcode

/-- Settles O7: in IDLE without an event nothing is fetched and the control part changes nothing. -/
theorem idleEdgeWithoutEventKeepsState : Obligations.IdleEdgeWithoutEventKeepsState :=
  fun _ hrun hidle hv => step_idle_quiet hrun hidle hv

/-! ### The reset edge (R128 to R130) -/

/-- Settles O9: the edge leaves `resetEdge`, whose registers are the values of R129. -/
theorem resetEdgeResetsEveryRegister : Obligations.ResetEdgeResetsEveryRegister := by
  intro s hl hpins
  have hreset : s.resetting = true := by rcases hpins with h | h <;> simp [State.resetting, h]
  refine ⟨by simp [State.transfers, hreset], resetEdge s, step_of_resetting hl hreset, rfl, rfl, rfl, rfl, ?slots, rfl,
    rfl, rfl, rfl, ?buffer, rfl, rfl, rfl, rfl, rfl, rfl, rfl, rfl, rfl, rfl, rfl, rfl, rfl, rfl, rfl⟩
  case slots => exact fun i => Vector.getElem_replicate _
  case buffer => exact fun i => Vector.getElem_replicate _

/-! ### The ports (R14, R40) -/

/-- Settles O57: each output and each transfer is one condition on the registers and the pins. -/
theorem outputsAreFunctionsOfRegisters : Obligations.OutputsAreFunctionsOfRegisters := by
  intro s
  refine ⟨by simp [State.outputs], by simp [State.outputs], rfl, rfl, by simp [State.outputs], ?data, ?quiet,
    fun hrst htd => ?transfers⟩
  case data =>
    intro k htx hk
    simp [State.outputs, htx, pktByte, hk]
  case quiet =>
    intro hne
    simp [State.outputs, hne]
  case transfers =>
    have hrun : s.resetting = false := by simp [State.resetting, hrst, htd]
    have hsome {α : Type} (c : Prop) [Decidable c] (x y : α) : (if c then some x else none) = some y ↔ c ∧ y = x := by
      by_cases hc : c <;> simp [hc, eq_comm]
    simp only [State.transfers, hrun, Bool.false_eq_true, if_false, hsome, Bool.and_eq_true, and_assoc,
      and_left_comm (a := s.pins.evtValid = true), implies_true, and_self]

/-- Outside IDLE no event is transferred (R40). -/
theorem transfers_event_of_ne_idle {s : State} (h : s.ctl.fsm ≠ .idle) : s.transfers.event = none := by
  have hready : s.outputs.evtReady = false := by simp [State.outputs, h]
  unfold State.transfers
  split
  · rfl
  · simp [hready]

/-- The block with these pins at the next edge, but for the event port. -/
def withEvent (p : Pins) (v : Bool) (e : EventWord) (s : State) : State :=
  s.withPins { p with evtValid := v, evtData := e }

section

variable (s : State) (p : Pins) (v : Bool) (e : EventWord)

/-- The end of an edge forgets the pins that it sampled (R133). -/
theorem afterEdge_withEvent (t : State) :
    afterEdge (withEvent p v e s) { t with inputs := (withEvent p v e s).inputs } = afterEdge (s.withPins p) t := rfl

/-- An edge in TX does not look at the event port (R101). -/
theorem txEdge_withEvent :
    txEdge (withEvent p v e s) = { txEdge (s.withPins p) with inputs := (withEvent p v e s).inputs } := by
  have hready : (withEvent p v e s).pins.txReady = (s.withPins p).pins.txReady := rfl
  have hframer : (withEvent p v e s).framer = (s.withPins p).framer := rfl
  simp only [txEdge, hready, hframer]
  split
  · split <;> rfl
  · rfl

/-- An edge in WAIT does not look at the event port (R109). -/
theorem waitEdge_withEvent (f : Option Frame) :
    waitEdge f (withEvent p v e s) = { waitEdge f (s.withPins p) with inputs := (withEvent p v e s).inputs } := by
  have hctl : (withEvent p v e s).ctl = (s.withPins p).ctl := rfl
  simp only [waitEdge, hctl]
  cases f.bind (judge (s.withPins p).ctl.pendCmd) with
  | some st => rfl
  | none =>
    simp only [countDown, hctl]
    split <;> rfl

end

/-- Settles O55: whether an edge is refused or resets does not depend on the event port, and neither do the control parts of
TX, WAIT and DONE. -/
theorem eventPortIgnoredOutsideIdle : Obligations.EventPortIgnoredOutsideIdle := by
  intro s p v e hne
  refine ⟨?_, transfers_event_of_ne_idle hne⟩
  change step (withEvent p v e s) = step (s.withPins p)
  cases hl : legalConfig s.cfg with
  | false =>
    have hrefused (q : Pins) : step (s.withPins q) = .refused .illegalConfiguration := by simp [step, hl]
    exact (hrefused _).trans (hrefused p).symm
  | true =>
    cases hr : (s.withPins p).resetting with
    | true =>
      exact (step_of_resetting (s := withEvent p v e s) hl hr).trans (step_of_resetting (s := s.withPins p) hl hr).symm
    | false =>
      simp only [State.resetting, Bool.or_eq_false_iff] at hr
      obtain ⟨hrst, htd⟩ := hr
      have hrun : Running (s.withPins p) := ⟨hl, hrst, htd⟩
      have hrun' : Running (withEvent p v e s) := ⟨hl, hrst, htd⟩
      cases hw : s.ctl.fsm with
      | idle => exact absurd hw hne
      | tx => rw [step_tx hrun' hw, step_tx hrun hw, txEdge_withEvent, afterEdge_withEvent]
      | wait =>
        rw [step_wait hrun' hw, step_wait hrun hw, waitEdge_withEvent, afterEdge_withEvent]
        rfl
      | done => exact (step_done hrun' hw).trans (step_done hrun hw).symm

/-! ### The device state (R107, R113) -/

/-- Settles O51: outside a reset edge only an edge that commits an event's result writes the device state, and a malformed
word's result leaves it. -/
theorem deviceChangesOnlyByEventOrReset : Obligations.DeviceChangesOnlyByEventOrReset := by
  intro s t h hne
  rcases step_next_cases h with ⟨-, hr, -⟩ | ⟨-, -, -, rfl⟩ | ⟨-, hidle, hv, r, rfl, hword⟩ | ⟨-, -, rfl⟩ |
    ⟨-, -, rfl⟩ | ⟨-, -, rfl⟩
  · simp only [State.resetting, Bool.or_eq_true] at hr
    exact hr.imp_right .inl
  · exact absurd rfl hne
  · obtain ⟨i, hdec, -⟩ | ⟨-, rfl⟩ := hword
    · exact .inr (.inr ⟨hidle, hv, i, hdec⟩)
    · exact absurd rfl hne
  · obtain ⟨-, hdev, -⟩ := txEdge_frame s
    exact absurd hdev hne
  · obtain ⟨-, hdev, -⟩ := waitEdge_frame s.frame s
    exact absurd hdev hne
  · exact absurd rfl hne

/-! ### The frame of the packets and the reply frames -/

/-- A packet instruction is `runPacket` with its command byte and its bytes. -/
theorem exec_packet {i : Instr} (h : isPacket i = true) (s : State) :
    ∃ cmd bytes, exec i s = .next (runPacket cmd bytes s) := by
  cases i with
  | pktKbd | pktAbs | pktRel | pktRst => exact ⟨_, _, rfl⟩
  | keydown | keyup | movea | mover | btndown | btnup | scroll | reset | replyOk | replyErr => cases h

/-- A reply instruction is `runReply` with its frame. -/
theorem exec_reply {i : Instr} (he : isEvent i = false) (hp : isPacket i = false) (s : State) :
    ∃ f, exec i s = .next (runReply f s) := by
  cases i with
  | replyOk | replyErr => exact ⟨_, rfl⟩
  | keydown | keyup | movea | mover | btndown | btnup | scroll | reset => cases he
  | pktKbd | pktAbs | pktRel | pktRst => cases hp

/-- A reply frame keeps the pending command and the record's command byte (R109, R113). -/
theorem runReply_cmds (f : Frame) (s : State) :
    (runReply f s).ctl.pendCmd = s.ctl.pendCmd ∧ (runReply f s).ctl.cmplCmd = s.ctl.cmplCmd := by
  by_cases hw : s.ctl.fsm = .wait
  · obtain ⟨-, -, -, -, -, -, hpend, hcmpl⟩ := waitEdge_frame (some f) s
    simp only [runReply, hw]
    exact ⟨hpend, hcmpl⟩
  · rw [runReply_of_ne_wait hw]
    exact ⟨rfl, rfl⟩

/-- Settles O54: a packet is `runPacket` and a reply frame `runReply`, and each has its frame. -/
theorem packetsAndRepliesLeaveTheDeviceUnchanged : Obligations.PacketsAndRepliesLeaveTheDeviceUnchanged := by
  intro s t i hevent hexec
  cases hpacket : isPacket i with
  | true =>
    obtain ⟨cmd, bytes, h⟩ := exec_packet hpacket s
    cases h.symm.trans hexec
    obtain ⟨hcfg, hdev, hrx, hinputs, hedge⟩ := runPacket_frame cmd bytes s
    refine ⟨hdev, hcfg, hrx, hinputs, hedge, nofun, fun _ htx => ?_⟩
    obtain ⟨-, -, -, -, -, hpkt, -, hstatus, hcmd⟩ := txEdge_frame s
    simp only [runPacket, htx]
    exact ⟨hpkt, hstatus, hcmd⟩
  | false =>
    obtain ⟨f, h⟩ := exec_reply hevent hpacket s
    cases h.symm.trans hexec
    obtain ⟨hcfg, hdev, hframer, hrx, hinputs, hedge⟩ := runReply_frame f s
    exact ⟨hdev, hcfg, hrx, hinputs, hedge, fun _ => ⟨hframer, runReply_cmds f s⟩, nofun⟩

end Sys2Proof.Proofs.Edge
end

section
/-! The invariant of the reachable states (10_state.md sections 2 and 5): it holds at reset, every step keeps it, so every
run does; and what no step changes: the configuration (R29), and the device state but by an event or a reset (R107). -/

namespace Sys2Proof.Proofs.Invariant

open Sys2Proof Sys2Proof.Machine
open Sys2Proof.Proofs.Framer (zextCoord_toNat)
open Sys2Proof.Proofs.Correlator
open Sys2Proof.Proofs.EventEffects
open Sys2Proof.Proofs.Edge

/-! ### The device state (R18 to R21) -/

/-- Filling a slot with a usage that no slot holds keeps the usages apart (R18, R71). -/
theorem slotsDistinct_insert {slots : Slots} {u : Byte} (h : SlotsDistinct slots) (hu : findSlot slots u = none)
    (i : Fin 6) : SlotsDistinct (setSlot slots i u) := by
  intro a b hab hne
  by_cases ha : i = a
  · have hb : i ≠ b := fun hb => hab (ha.symm.trans hb)
    rw [getElem_setSlot, getElem_setSlot, if_pos ha, if_neg hb]
    exact (findSlot_none hu b).symm
  · rw [getElem_setSlot, if_neg ha] at hne ⊢
    rw [getElem_setSlot]
    split
    · exact findSlot_none hu a
    · exact h a b hab hne

/-- Emptying a slot keeps the usages apart (R18, R74). -/
theorem slotsDistinct_empty {slots : Slots} (h : SlotsDistinct slots) (i : Fin 6) :
    SlotsDistinct (setSlot slots i 0x00) := by
  intro a b hab hne
  rw [getElem_setSlot] at hne
  split at hne
  · exact absurd rfl hne
  · next ha =>
    rw [getElem_setSlot, getElem_setSlot, if_neg ha]
    split
    · exact hne
    · exact h a b hab hne

/-- Or-ing a button's mask into the three button bits leaves three button bits (R19, R81). -/
theorem or_buttonMask_lt {b btn : Byte} (h : b.toNat < 8) (hb : 1 ≤ btn.toNat ∧ btn.toNat ≤ 3) :
    (b ||| buttonMask btn).toNat < 8 := by
  have hmask : (buttonMask btn).toNat < 2 ^ 3 := by
    have hcases : btn.toNat - 1 = 0 ∨ btn.toNat - 1 = 1 ∨ btn.toNat - 1 = 2 := by omega
    rcases hcases with h' | h' | h' <;> rw [buttonMask, h'] <;> decide
  rw [BitVec.toNat_or]
  exact Nat.or_lt_two_pow (n := 3) h hmask

section

variable {c : Config} {d : Device}

/-- KEYDOWN keeps the device invariant: a usage goes only into the slots that none holds. -/
theorem keydown_deviceInv (h : DeviceInv c d) (kc : Byte) (r : Bool) : DeviceInv c ((keydown c d kc r).device d) := by
  obtain ⟨hslots, hrest⟩ := h
  rcases keydown_cases c d kc r with ⟨m, -, -, heq⟩ | ⟨m, -, -, heq⟩ | ⟨-, -, heq⟩ | ⟨u, i, -, -, -, heq⟩ |
    ⟨u, i, -, -, hu, -, heq⟩ | ⟨u, -, -, -, -, heq⟩ <;> rw [heq]
  case inr.inr.inr.inr.inl => exact ⟨slotsDistinct_insert hslots hu i, hrest⟩
  all_goals exact ⟨hslots, hrest⟩

/-- KEYUP keeps the device invariant: it only empties a slot. -/
theorem keyup_deviceInv (h : DeviceInv c d) (kc : Byte) (r : Bool) : DeviceInv c ((keyup c d kc r).device d) := by
  obtain ⟨hslots, hrest⟩ := h
  rcases keyup_cases c d kc r with ⟨m, -, -, heq⟩ | ⟨m, -, -, heq⟩ | ⟨-, -, heq⟩ | ⟨u, i, -, -, -, heq⟩ |
    ⟨u, -, -, -, heq⟩ <;> rw [heq]
  case inr.inr.inr.inl => exact ⟨slotsDistinct_empty hslots i, hrest⟩
  all_goals exact ⟨hslots, hrest⟩

/-- The guard's flag after a move that goes on is 0 where the guard is off (R21, R78). -/
theorem oob_proceed (h : c.oobGuard = false → d.oob = false) :
    c.oobGuard = false → (if c.oobGuard then false else d.oob) = false := fun hg => by
  rw [hg]
  exact h hg

/-- The cleared keyboard and mouse state meets the device invariant. -/
theorem cleared_deviceInv {o : Bool} (h : c.oobGuard = false → o = false) :
    DeviceInv c { kbd := { kbdMod := 0x00, kbdSlot := Vector.replicate 6 0x00 }
                  mouse := { msBtn := 0x00, msX := 0, msY := 0 }, oob := o } := by
  refine ⟨fun i j _ hne => ?_, Nat.zero_lt_succ 7, Nat.zero_le _, Nat.zero_le _, h⟩
  simp at hne

/-- Every event keeps the device invariant. -/
theorem eventResult_deviceInv {i : Instr} {r : EventResult} (hr : eventResult i c d = some r) (h : DeviceInv c d) :
    DeviceInv c (r.device d) := by
  cases i with
  | keydown kc side =>
    cases hr
    exact keydown_deviceInv h kc side
  | keyup kc side =>
    cases hr
    exact keyup_deviceInv h kc side
  | movea x y out =>
    cases hr
    obtain ⟨hslots, hbtn, hx, hy, hoob⟩ := h
    rcases movea_cases c d x y out with ⟨hg, heq⟩ | heq <;> rw [heq]
    · exact ⟨hslots, hbtn, hx, hy, fun hoff => nomatch hg.symm.trans hoff⟩
    · refine ⟨hslots, hbtn, ?_, ?_, oob_proceed hoob⟩
      · exact (zextCoord_toNat x).trans_le (Nat.le_of_lt_succ x.isLt)
      · exact (zextCoord_toNat y).trans_le (Nat.le_of_lt_succ y.isLt)
  | mover dx dy out =>
    cases hr
    obtain ⟨hslots, hbtn, hx, hy, hoob⟩ := h
    rcases mover_cases c d dx dy out with ⟨hg, heq⟩ | heq <;> rw [heq]
    · exact ⟨hslots, hbtn, hx, hy, fun hoff => nomatch hg.symm.trans hoff⟩
    · exact ⟨hslots, hbtn, hx, hy, oob_proceed hoob⟩
  | btndown btn =>
    cases hr
    rcases btndown_cases c d btn with heq | ⟨-, -, heq⟩ | ⟨hb, heq⟩ <;> rw [heq]
    · exact h
    · exact h
    · obtain ⟨hslots, hbtn, hrest⟩ := h
      exact ⟨hslots, or_buttonMask_lt hbtn hb, hrest⟩
  | btnup btn =>
    cases hr
    rcases btnup_cases c d btn with heq | ⟨-, -, heq⟩ | heq <;> rw [heq]
    · exact h
    · exact h
    · obtain ⟨hslots, hbtn, hrest⟩ := h
      refine ⟨hslots, ?_, hrest⟩
      dsimp only [EventResult.device]
      split
      · decide
      · rw [BitVec.toNat_and]
        exact Nat.and_le_left.trans_lt hbtn
  | scroll tilt =>
    cases hr
    rcases scroll_cases c d tilt with ⟨-, -, heq⟩ | heq | heq <;> rw [heq] <;> exact h
  | reset =>
    cases hr
    obtain ⟨-, -, -, -, hoob⟩ := h
    exact cleared_deviceInv hoob
  | pktKbd | pktAbs | pktRel | pktRst | replyOk | replyErr => cases hr

/-- Every event word, malformed or not, keeps the device invariant. -/
theorem wordResult_deviceInv (h : DeviceInv c d) (w : EventWord) : DeviceInv c ((wordResult c d w).device d) := by
  unfold wordResult
  split
  · next i _ =>
    cases hr : eventResult i c d with
    | none => exact h
    | some r => exact eventResult_deviceInv hr h
  · exact h

end

/-! ### The packet being sent and the wait (R22, R24, R101, R110) -/

/-- After an event that called for a packet, the buffer holds it and its first byte is next (R100). -/
theorem commit_sendingInv {s : State} {r : EventResult} (h : (commit s r).ctl.fsm = .tx) : SendingInv (commit s r) := by
  obtain ⟨d, p, rfl⟩ := Framer.eq_send_of_commit_tx h
  have hlen : (buildPacket d p).length = (loadPacket (buildPacket d p) s.framer).pktLen.toNat :=
    (buildPacket_length_toNat d p).symm
  have hpos : 0 < (buildPacket d p).length := by
    rw [buildPacket_length]
    cases p <;> simp
  rcases sendPacket_cases p.cmd (buildPacket d p) { s with dev := d } with ⟨-, heq⟩ | ⟨-, heq⟩
  · rw [commit, heq]
    exact ⟨p, hlen, Nat.lt_of_lt_of_eq hpos hlen, loadPacket_take d p s.framer, rfl⟩
  · rw [commit, heq] at h
    cases h

/-- No event puts the block into WAIT (R107). -/
theorem commit_fsm_ne_wait (s : State) (r : EventResult) : (commit s r).ctl.fsm ≠ .wait := by
  rcases commit_framer s r with ⟨h, -⟩ | ⟨h, -⟩ <;> rw [h] <;> nofun

/-- A packet's command byte is one of the four (R59). -/
theorem cmd_mem (p : PacketCall) : p.cmd ∈ [cmdKbd, cmdAbs, cmdRel, cmdRst] := by
  cases p <;> simp [PacketCall.cmd]

/-- The fourth byte of a packet is its command byte (R58). -/
theorem buildPacket_cmd (d : Device) (p : PacketCall) : (buildPacket d p)[3]? = some p.cmd := by
  cases p <;> rfl

/-- The buffer's fourth byte is the command byte of the packet that it holds. -/
theorem pkt_three_of_take {f : Framer} {d : Device} {p : PacketCall} {n : Nat}
    (h : f.pkt.toList.take n = buildPacket d p) : f.pkt[3] = p.cmd := by
  have hthree : (f.pkt.toList.take n)[3]? = some p.cmd := h ▸ buildPacket_cmd d p
  rw [List.getElem?_take] at hthree
  split at hthree
  · simpa using hthree
  · cases hthree

/-- An edge in TX goes on sending the same packet (R101). -/
theorem txEdge_sendingInv {s : State} (h : SendingInv s) (htx : (txEdge s).ctl.fsm = .tx) : SendingInv (txEdge s) := by
  obtain ⟨p, hlen, hidx, hpkt, hcmd⟩ := h
  rcases txEdge_cases s with ⟨-, heq⟩ | ⟨-, -, heq⟩ | ⟨-, hne, heq⟩ <;> rw [heq] at htx ⊢
  · exact ⟨p, hlen, hidx, hpkt, hcmd⟩
  · cases htx
  · have hnext : (s.framer.txIdx + 1).toNat < s.framer.pktLen.toNat := by bv_omega
    exact ⟨p, hlen, hnext, hpkt, hcmd⟩

/-- The edge that takes the last byte of a packet begins a wait for its command with the whole timer (R108). -/
theorem txEdge_waitingInv {s : State} (hl : legalConfig s.cfg = true) (htx : s.ctl.fsm = .tx) (h : SendingInv s)
    (hwait : (txEdge s).ctl.fsm = .wait) : WaitingInv (txEdge s) := by
  obtain ⟨p, hlen, hidx, hpkt, hcmd⟩ := h
  rcases txEdge_cases s with ⟨-, heq⟩ | ⟨-, -, heq⟩ | ⟨-, hne, heq⟩ <;> rw [heq] at hwait ⊢
  · cases htx.symm.trans hwait
  · have hbyte : pktByte s.framer 3 = p.cmd := pkt_three_of_take hpkt
    obtain ⟨-, -, htimer, -⟩ := (legalConfig_iff s.cfg).1 hl
    exact ⟨htimer, le_rfl, hbyte.trans hcmd.symm, hbyte ▸ cmd_mem p⟩
  · cases htx.symm.trans hwait

/-- An edge in WAIT that goes on waiting has counted the timer down to no less than 1 (R110). -/
theorem waitEdge_waitingInv {s : State} {f : Option Frame} (h : WaitingInv s) (hwait : (waitEdge f s).ctl.fsm = .wait) :
    WaitingInv (waitEdge f s) := by
  obtain ⟨hlow, hhigh, hcmd, hmem⟩ := h
  rcases waitEdge_cases f s with ⟨st, -, heq⟩ | ⟨-, -, heq⟩ | ⟨-, hne, heq⟩ <;> rw [heq] at hwait ⊢
  · cases hwait
  · cases hwait
  · have hdown : timerDown s.cfg s.ctl.pendTimer = s.ctl.pendTimer - 1 := if_neg (by omega)
    refine ⟨?_, ?_, hcmd, hmem⟩ <;> dsimp only <;> rw [hdown] <;> omega

/-- No edge in WAIT goes back to TX. -/
theorem waitEdge_fsm_ne_tx {s : State} (f : Option Frame) (hw : s.ctl.fsm = .wait) : (waitEdge f s).ctl.fsm ≠ .tx := by
  rcases waitEdge_cases f s with ⟨st, -, heq⟩ | ⟨-, -, heq⟩ | ⟨-, -, heq⟩ <;> rw [heq]
  · nofun
  · nofun
  · rw [hw]
    nofun

/-! ### The parser (R104) -/

/-- Registers that hunt for a header meet the parser's invariant. -/
theorem parserInv_h0 (p : RxRegs) : ParserInv { p with rxSt := .h0 } := ⟨nofun, nofun, nofun, nofun, nofun⟩

/-- Registers that have taken a header's first byte meet the parser's invariant. -/
theorem parserInv_h1 (p : RxRegs) : ParserInv { p with rxSum := 0x57, rxSt := .h1 } :=
  ⟨fun _ => rfl, nofun, nofun, nofun, nofun⟩

/-- A byte taken keeps the parser's invariant: the running sum grows with the header, and the count stays below the length
until it reaches it. -/
theorem rxStep_parserInv {p : RxRegs} (h : ParserInv p) (b : Byte) : ParserInv (rxStep b p) := by
  obtain ⟨h1, h2, hcmd, hlen, hdata⟩ := h
  cases hst : p.rxSt with
  | h0 =>
    rw [rxStep_h0 hst]
    split
    · exact parserInv_h1 p
    · exact ⟨h1, h2, hcmd, hlen, hdata⟩
  | h1 =>
    by_cases hb : b = 0xAB
    · rw [rxStep_h1_header hst hb, h1 hst]
      exact ⟨nofun, fun _ => rfl, nofun, nofun, nofun⟩
    by_cases hb' : b = 0x57
    · rw [rxStep_restart (.inl hst) hb']
      exact parserInv_h1 p
    · rw [rxStep_h1_other hst hb hb']
      exact parserInv_h0 p
  | h2 =>
    by_cases hb : b = 0x00
    · rw [rxStep_h2_header hst hb]
      exact ⟨nofun, nofun, fun _ => h2 hst, nofun, nofun⟩
    by_cases hb' : b = 0x57
    · rw [rxStep_restart (.inr hst) hb']
      exact parserInv_h1 p
    · rw [rxStep_h2_other hst hb hb']
      exact parserInv_h0 p
  | cmd =>
    rw [rxStep_cmd hst, hcmd hst]
    exact ⟨nofun, nofun, nofun, fun _ => rfl, nofun⟩
  | len =>
    rw [rxStep_len hst]
    split
    · exact ⟨nofun, nofun, nofun, nofun, nofun⟩
    · next hb => exact ⟨nofun, nofun, nofun, nofun, fun _ => Nat.pos_of_ne_zero fun h0 => hb (BitVec.eq_of_toNat_eq h0)⟩
  | data =>
    have hlt := hdata hst
    rw [rxStep_data hst]
    split
    · exact ⟨nofun, nofun, nofun, nofun, nofun⟩
    · next hne =>
      have hnext : (p.rxCnt + 1).toNat < p.rxLen.toNat := by bv_omega
      exact ⟨nofun, nofun, nofun, nofun, fun _ => hnext⟩
  | sum =>
    rw [rxStep_sum hst]
    exact parserInv_h0 p

/-- An edge keeps the parser's invariant, whether or not it takes a byte. -/
theorem rxNext_parserInv {s : State} (h : ParserInv s.rx) : ParserInv s.rxNext := by
  unfold State.rxNext
  split
  · exact rxStep_parserInv h _
  · exact h

/-! ### The obligations -/

/-- The reset state meets the invariant, whatever the configuration and the script. -/
theorem resetWith_inv (c : Config) (inputs : List Pins) (n : Nat) : (State.resetWith c inputs n).Inv :=
  ⟨cleared_deviceInv fun _ => rfl, nofun, nofun, nofun, nofun, nofun, nofun, nofun, nofun⟩

/-- Settles O46: nothing is sent or awaited, and the registers are those of R129. -/
theorem invariantHoldsAtReset : Obligations.InvariantHoldsAtReset :=
  ⟨resetWith_inv standardConfig [] 0, resetWith_inv⟩

/-- What an edge leaves meets the invariant where its control part keeps the device, sending and waiting parts. -/
theorem afterEdge_inv {s t : State} (hrx : ParserInv s.rx) (hdev : DeviceInv t.cfg t.dev)
    (htx : t.ctl.fsm = .tx → SendingInv t) (hwait : t.ctl.fsm = .wait → WaitingInv t)
    (hst : t.ctl.cmplStatus ≠ .invalidModifier) : (afterEdge s t).Inv :=
  ⟨hdev, htx, hwait, hst, rxNext_parserInv hrx⟩

/-- Settles O47: each control part keeps the parts of the invariant that it writes, the status is O50's, and the parser's
registers are kept by every byte. -/
theorem everyStepKeepsTheInvariant : Obligations.EveryStepKeepsTheInvariant := by
  intro s t hinv hstep
  obtain ⟨hdev, htx, hwait, hst, hrx⟩ := hinv
  have hst' : t.ctl.cmplStatus ≠ .invalidModifier := fun h =>
    hst (Exceptions.invalidModifierIsNeverProduced.2 s t hstep h)
  rcases step_next_cases hstep with ⟨-, -, rfl⟩ | ⟨-, -, -, rfl⟩ | ⟨hrun, hidle, hv, -⟩ | ⟨hrun, hw, rfl⟩ |
    ⟨-, hw, rfl⟩ | ⟨-, -, rfl⟩
  · exact resetWith_inv _ _ _
  · exact afterEdge_inv hrx hdev htx hwait hst'
  · obtain rfl := Host.Outcome.next.inj ((step_idle_wordResult hrun hidle hv).symm.trans hstep)
    obtain ⟨hcfg, hdev', -⟩ := commit_frame s (wordResult s.cfg s.dev s.pins.evtData)
    refine afterEdge_inv hrx ?_ commit_sendingInv (fun h => absurd h (commit_fsm_ne_wait s _)) hst'
    rw [hcfg, hdev']
    exact wordResult_deviceInv hdev _
  · obtain ⟨hcfg, hdev', -⟩ := txEdge_frame s
    refine afterEdge_inv hrx ?_ (txEdge_sendingInv (htx hw)) (txEdge_waitingInv hrun.1 hw (htx hw)) hst'
    rw [hcfg, hdev']
    exact hdev
  · obtain ⟨hcfg, hdev', -⟩ := waitEdge_frame s.frame s
    refine afterEdge_inv hrx ?_ (fun h => absurd h (waitEdge_fsm_ne_tx _ hw)) (waitEdge_waitingInv (hwait hw)) hst'
    rw [hcfg, hdev']
    exact hdev
  · exact afterEdge_inv hrx hdev nofun nofun hst'

/-- What every step keeps, every run keeps. -/
theorem runEdges_induction {P : State → Prop} (hstep : ∀ s t, P s → step s = .next t → P t) :
    ∀ {n : Nat} {s t : State}, P s → runEdges n s = .next t → P t := by
  intro n
  induction n with
  | zero =>
    intro s t hs hrun
    cases hrun
    exact hs
  | succ n ih =>
    intro s t hs hrun
    obtain ⟨u, hone, hrest⟩ := runEdges_succ_next hrun
    exact ih (hstep s u hs hone) hrest

/-- Settles O48: the invariant holds at reset and every step keeps it, and it keeps the slots apart. -/
theorem noUsageInTwoSlots : Obligations.NoUsageInTwoSlots := by
  intro c inputs k n t hrun
  obtain ⟨⟨hslots, -⟩, -⟩ := runEdges_induction everyStepKeepsTheInvariant (resetWith_inv c inputs k) hrun
  exact hslots

end Sys2Proof.Proofs.Invariant
end

section
/-! The packets and the checksum (43_framer.md): what verification accepts (R92), the packets that a Send builds, a packet
called for and its bytes in TX (R99 to R101, R108). -/

namespace Sys2Proof.Proofs.Packets

open Sys2Proof Sys2Proof.Machine
open Sys2Proof.Proofs.Keyboard (toList_slots)
open Sys2Proof.Proofs.Framer (le16_eq remapped_ne)
open Sys2Proof.Proofs.RoundTrip (decodePacket_of_encode)
open Sys2Proof.Proofs.Edge (additive_eq_checksum)

/-! ### Verification (R92) -/

/-- A sequence passes exactly where its last byte is the checksum of the others. -/
theorem passesChecksum_append (body : List Byte) (k : Byte) : passesChecksum (body ++ [k]) = (k == checksum body) := by
  simp [passesChecksum]

/-- The checksum of a sequence is its first byte plus the checksum of the others. -/
theorem checksum_cons (b : Byte) (bytes : List Byte) : checksum (b :: bytes) = b + checksum bytes := by
  rw [← List.singleton_append, checksum_append, show checksum [b] = b from BitVec.zero_add b]

/-- The checksum with one byte replaced: it is the same only where the byte is. -/
theorem checksum_set_eq_iff {bytes : List Byte} {i : Nat} (hi : i < bytes.length) (b : Byte) :
    checksum (bytes.set i b) = checksum bytes ↔ bytes[i] = b := by
  conv_lhs => rhs; rw [← List.take_append_drop i bytes, List.drop_eq_getElem_cons hi]
  rw [List.set_eq_take_append_cons_drop, if_pos hi, checksum_append, checksum_append, checksum_cons, checksum_cons,
    add_right_inj, add_left_inj, eq_comm]

/-- Bytes in another order have the same sum. -/
theorem additive_perm {body other : List Byte} (h : body.Perm other) : additive body = additive other := by
  rw [additive, (h.map BitVec.toNat).sum_eq, additive]

/-- Settles O56: verification compares the last byte with the checksum of the others, a sum in which every byte counts and
their order does not. -/
theorem checksumDetectsOneChangedByte : Obligations.ChecksumDetectsOneChangedByte := by
  refine ⟨fun body k => ?exactly, fun d p => ?built, fun body k b i hi hpass hne => ?changed,
    fun body other k hsame => ?same⟩
  case exactly => rw [passesChecksum_append, beq_iff_eq, additive_eq_checksum]
  case built => cases p <;> exact passesChecksum_withChecksum _
  case changed =>
    rw [passesChecksum_append, beq_iff_eq] at hpass
    rw [passesChecksum_append, hpass, beq_eq_false_iff_ne]
    exact fun heq => hne ((checksum_set_eq_iff hi b).1 heq.symm)
  case same =>
    have hsum : additive body = additive other := hsame.elim id additive_perm
    rw [passesChecksum_append, passesChecksum_append, ← additive_eq_checksum, ← additive_eq_checksum, hsum]

/-! ### The packets that a Send builds (R93 to R97) -/

/-- The body of the packet that a Send builds. -/
def packetBody (d : Device) : PacketCall → List Byte
  | .kbd => kbdBody d.kbd.kbdMod 0x00 d.kbd.kbdSlot
  | .abs => absBody 0x02 d.mouse.msBtn d.mouse.msX d.mouse.msY 0x00
  | .rel dx dy w => relBody 0x01 d.mouse.msBtn (remap dx) (remap dy) w
  | .rst => rstBody

/-- The packet instruction that a Send builds. -/
def packetInstr (d : Device) : PacketCall → Instr
  | .kbd => .pktKbd d.kbd.kbdMod 0x00 d.kbd.kbdSlot (checksum (packetBody d .kbd))
  | .abs => .pktAbs 0x02 d.mouse.msBtn d.mouse.msX d.mouse.msY 0x00 (checksum (packetBody d .abs))
  | .rel dx dy w => .pktRel 0x01 d.mouse.msBtn (remap dx) (remap dy) w (checksum (packetBody d (.rel dx dy w)))
  | .rst => .pktRst (checksum (packetBody d .rst))

/-- What is built is the body closed by its checksum (R91). -/
theorem buildPacket_eq (d : Device) (p : PacketCall) : buildPacket d p = withChecksum (packetBody d p) := by
  cases p <;> rfl

/-- What is built is the encoding of that instruction. -/
theorem encode_packetInstr (d : Device) (p : PacketCall) : encode (packetInstr d p) = .packet (buildPacket d p) := by
  cases p <;> rfl

/-- The registers of a device state that meets the invariant fit a packet's fields, and a remapped delta is not `0x80`. -/
theorem packetInstr_wellFormed {c : Config} {d : Device} (h : DeviceInv c d) (p : PacketCall) :
    (packetInstr d p).wellFormed = true := by
  obtain ⟨-, hbtn, hx, hy, -⟩ := h
  cases p with
  | kbd => simp [packetInstr, packetBody, Instr.wellFormed]
  | abs => simp [packetInstr, packetBody, Instr.wellFormed, hbtn, hx, hy]
  | rel dx dy w =>
    have hdx : remap dx ≠ 0x80 := remapped_ne dx
    have hdy : remap dy ≠ 0x80 := remapped_ne dy
    simpa [packetInstr, packetBody, Instr.wellFormed, hbtn] using And.intro hdx hdy
  | rst => simp [packetInstr, packetBody, Instr.wellFormed]

/-- Settles O31: the packet built is the encoding of `packetInstr`, and the decoder inverts the encoder. -/
theorem builtPacketsAreWellFormed : Obligations.BuiltPacketsAreWellFormed := by
  intro c d p h
  refine ⟨⟨packetInstr d p, packetInstr_wellFormed h p, by cases p <;> rfl, encode_packetInstr d p, ?_⟩, ?_⟩
  · simpa using decodePacket_of_encode (rest := []) (encode_packetInstr d p)
  · rw [buildPacket_eq, withChecksum, List.dropLast_concat, closed, additive_eq_checksum]

/-! ### A packet called for (R99, R100) -/

/-- Calling for a packet sends its bytes with the device state as it is. -/
theorem sendPacket_sentFrom {bytes : List Byte} (hlen : bytes.length ≤ 14) (cmd : Byte) (s : State) :
    SentFrom s.dev cmd bytes s (sendPacket cmd bytes s) := by
  rcases sendPacket_cases cmd bytes s with ⟨hup, heq⟩ | ⟨hdown, heq⟩ <;> rw [heq]
  · exact ⟨fun _ => ⟨loadPacket_pkt bytes s.framer hlen, rfl⟩, fun hdown => nomatch hup.symm.trans hdown⟩
  · exact ⟨fun hup => (nomatch hdown.symm.trans hup), fun _ => rfl⟩

/-- A packet instruction in IDLE calls for its bytes, written in any form of the same bytes. -/
theorem sentFrom_of_runPacket {i : Instr} {cmd : Byte} {bytes bytes' : List Byte} {s : State} (hidle : s.ctl.fsm = .idle)
    (hexec : exec i s = .next (runPacket cmd bytes s)) (hbytes : bytes = bytes') (hlen : bytes'.length ≤ 14) :
    ∃ t, exec i s = .next t ∧ SentFrom s.dev cmd bytes' s t := by
  subst hbytes
  simp only [runPacket, hidle] at hexec
  exact ⟨_, hexec, sendPacket_sentFrom hlen cmd s⟩

/-- Settles O30: in IDLE a packet instruction is `sendPacket` of its bytes, which are those of R94 to R97. -/
theorem packetCalledForIsLoaded : Obligations.PacketCalledForIsLoaded := by
  intro s hidle
  refine ⟨fun mod rsv slots cks => ?kbd, fun mode btn x y scr cks => ?abs, fun mode btn dx dy w cks => ?rel,
    fun cks => ?rst⟩
  case kbd =>
    exact sentFrom_of_runPacket hidle rfl (by simp [kbdBody, frameBody, toList_slots, hdr, cmdKbd]) (by simp)
  case abs =>
    exact sentFrom_of_runPacket hidle rfl (by simp [absBody, frameBody, le16_eq, hdr, cmdAbs]) (by simp)
  case rel => exact sentFrom_of_runPacket hidle rfl rfl (by simp)
  case rst => exact sentFrom_of_runPacket hidle rfl rfl (by simp)

/-! ### A packet in TX (R101, R108) -/

/-- The buffer's bytes by their index. -/
theorem pktByte_of_lt {f : Framer} {i : BitVec 4} (h : i.toNat < 14) : pktByte f i = f.pkt[i.toNat] := dif_pos h

/-- The last byte's index by the length. -/
theorem txIdx_eq_pktLen_sub_one_iff (f : Framer) : f.txIdx = f.pktLen - 1 ↔ f.txIdx + 1 = f.pktLen :=
  eq_sub_iff_add_eq

/-- Without `tx_ready` an edge in TX changes nothing. -/
theorem txEdge_stalled {s : State} (h : s.pins.txReady = false) : txEdge s = s := by
  simp [txEdge, h]

/-- With `tx_ready` and a byte left the index moves on. -/
theorem txEdge_next {s : State} (h : s.pins.txReady = true) (hlast : s.framer.txIdx + 1 ≠ s.framer.pktLen) :
    txEdge s = { s with framer := { s.framer with txIdx := s.framer.txIdx + 1 } } := by
  rw [txEdge, if_pos h, if_neg (mt (txIdx_eq_pktLen_sub_one_iff _).1 hlast)]

/-- With `tx_ready` at the last byte the PendingReply is registered. -/
theorem txEdge_last {s : State} (h : s.pins.txReady = true) (hlast : s.framer.txIdx + 1 = s.framer.pktLen) :
    txEdge s =
      { s with ctl := { s.ctl with pendCmd := s.framer.pkt[3], pendTimer := s.cfg.tReply, fsm := .wait } } := by
  rw [txEdge, if_pos h, if_pos ((txIdx_eq_pktLen_sub_one_iff _).2 hlast)]
  rfl

/-- In TX the byte at the index is offered (R14). -/
theorem txData_of_tx {s : State} (htx : s.ctl.fsm = .tx) (hidx : s.framer.txIdx.toNat < 14) :
    s.outputs.txData = s.framer.pkt[s.framer.txIdx.toNat] := by
  simp only [State.outputs, htx, if_pos, pktByte_of_lt hidx]

/-- Settles O32: every packet instruction in TX is `txEdge`, whose three cases are the three clauses. -/
theorem packetByteIsSentInTx : Obligations.PacketByteIsSentInTx := by
  intro s i hpacket htx
  rw [exec_packet_tx hpacket htx]
  refine ⟨by simp [State.outputs, htx], fun k hk => ?_, fun h => by rw [txEdge_stalled h],
    fun h hlast => by rw [txEdge_next h hlast], fun h hlast => by rw [txEdge_last h hlast]⟩
  rw [txData_of_tx htx (hk ▸ k.isLt)]
  simp only [hk]
  rfl

end Sys2Proof.Proofs.Packets
end

section
/-! Replies (44_correlator.md): a reply frame in WAIT (R109, R110), the parser over a header and over a whole frame (R104,
R105), and the wait of a chip that stays silent or sends what it likes (R113). -/

namespace Sys2Proof.Proofs.Replies

open Sys2Proof Sys2Proof.Machine
open Sys2Proof.Proofs.Correlator
open Sys2Proof.Proofs.RoundTrip (replyOfCode_okCode replyOfCode_errCode decodeReply_frame_iff)
open Sys2Proof.Proofs.Edge (additive_eq_checksum)
open Sys2Proof.Proofs.Packets (checksum_cons)

/-! ### A reply instruction in WAIT (R109, R110) -/

/-- The number of a code is its class, two bits, over the command's six (R62). -/
theorem code_toNat (k : BitVec 2) (cmd : BitVec 6) : (k ++ cmd).toNat = 64 * k.toNat + cmd.toNat := by
  rw [BitVec.toNat_append, ← Nat.shiftLeft_add_eq_or_of_lt cmd.isLt, Nat.shiftLeft_eq, Nat.mul_comm]

/-- A reply instruction and its code, as the parser's registers give them. -/
theorem replyOfCode_of_toNat {cmd : BitVec 6} {len paySum cks code : Byte} {i : Instr}
    (h : (i = .replyOk cmd len paySum cks ∧ code.toNat = 0x80 + cmd.toNat) ∨
      (i = .replyErr cmd len paySum cks ∧ code.toNat = 0xC0 + cmd.toNat)) :
    replyOfCode code len paySum cks = some i := by
  rcases h with ⟨rfl, hcode⟩ | ⟨rfl, hcode⟩
  · obtain rfl : code = okCode cmd := BitVec.eq_of_toNat_eq (hcode.trans (code_toNat 0b10#2 cmd).symm)
    exact replyOfCode_okCode cmd len paySum cks
  · obtain rfl : code = errCode cmd := BitVec.eq_of_toNat_eq (hcode.trans (code_toNat 0b11#2 cmd).symm)
    exact replyOfCode_errCode cmd len paySum cks

section

variable {s : State} {f : Option Frame}

/-- An edge in WAIT with a frame that the PendingReply gives a status. -/
theorem waitEdge_judged {fr : Frame} {st : Status} (hj : judge s.ctl.pendCmd fr = some st) :
    waitEdge (some fr) s = completedAs s.dev st s.ctl.cmplCmd s := by
  rw [← resolve_eq_completedAs]
  simp only [waitEdge, Option.bind_some, hj]

/-- An edge in WAIT without a frame, or with one that the PendingReply ignores. -/
theorem waitEdge_ignored (hj : f.bind (judge s.ctl.pendCmd) = none) : waitEdge f s = countDown s := by
  simp only [waitEdge, hj]

/-- The timer at 1 ends the wait (R110). -/
theorem countDown_of_one (ht : s.ctl.pendTimer = 1) : countDown s = completedAs s.dev .replyTimeout s.ctl.cmplCmd s :=
  if_pos ht

end

/-- Settles O34: the instruction's frame carries the test of R92 and the code, and `judge` answers for each case. -/
theorem replyResolvesTheWait : Obligations.ReplyResolvesTheWait := by
  intro s cmd len paySum cks code i hw hi
  have hsum : additive [0x57, 0xAB, 0x00, code, len, paySum] = replySum code len paySum := by
    rw [additive_eq_checksum, show [0x57, 0xAB, 0x00, code, len, paySum] = hdr ++ [code, len] ++ [paySum] from rfl,
      checksum_append, checksum_cons, replySum, show checksum [] = 0 from rfl, add_zero]
  rw [hsum, exec_reply_wait (replyOfCode_of_toNat hi) hw]
  refine ⟨fun hbad => ?mismatch, fun hgood => ⟨fun hok => ?success, fun hnok => ⟨fun herr => ?error, fun hnerr => ?other⟩⟩⟩
  case mismatch => rw [waitEdge_judged (judge_bad (beq_false_of_ne hbad))]
  case success => rw [waitEdge_judged (judge_ok (beq_of_eq hgood) hok)]
  case error => rw [waitEdge_judged (judge_error (beq_of_eq hgood) hnok herr)]
  case other =>
    rw [waitEdge_ignored (f := some _) (judge_other (beq_of_eq hgood) hnok hnerr)]
    exact ⟨fun ht => by rw [countDown_of_one ht], fun ht => by rw [countDown_of_lt ht]⟩

/-- Settles O37: no frame that the PendingReply judges ends at this edge, so the timer counts. -/
theorem waitCountsDownToTimeout : Obligations.WaitCountsDownToTimeout := by
  intro s hrun hw hnone
  have hignored : s.frame.bind (judge s.ctl.pendCmd) = none := by
    by_cases hend : s.pins.rxValid = false ∨ s.rx.rxSt ≠ .sum
    · rw [frame_eq_none hend, Option.bind_none]
    · rw [not_or, Bool.not_eq_false, not_ne_iff] at hend
      obtain ⟨hv, hsum⟩ := hend
      obtain ⟨hgood, hnok, hnerr⟩ := (hnone.resolve_left (by simp [hv])).resolve_left (by simp [hsum])
      rw [frame_of_sum hv hsum]
      exact judge_other (beq_of_eq hgood) hnok hnerr
  rw [step_wait hrun hw, waitEdge_ignored hignored]
  exact ⟨fun ht => by rw [countDown_of_one ht], fun ht => by rw [countDown_of_lt ht]⟩

/-! ### The parser over a frame (R104, R105) -/

/-- A header brings the parser from every hunting state to CMD, with the header's sum. -/
theorem rxSteps_header {p : RxRegs} (h : p.rxSt = .h0 ∨ p.rxSt = .h1 ∨ p.rxSt = .h2) :
    rxSteps [0x57, 0xAB, 0x00] p = { p with rxSum := 0x02, rxSt := .cmd } := by
  have hfirst : rxStep 0x57 p = { p with rxSum := 0x57, rxSt := .h1 } := by
    rcases h with h | h
    · rw [rxStep_h0 h, if_pos rfl]
    · exact rxStep_restart h rfl
  simp only [rxSteps, List.foldl_cons, List.foldl_nil, hfirst]
  rw [rxStep_h1_header rfl rfl, rxStep_h2_header rfl rfl]
  simp only [show (0x57 : Byte) + 0xAB = 0x02 from rfl]

/-- Settles O44: a header brings every hunting state to CMD. -/
theorem parserResynchronisesOnAHeader : Obligations.ParserResynchronisesOnAHeader := by
  intro p hp
  have hhunt : p.rxSt = .h0 ∨ p.rxSt = .h1 ∨ p.rxSt = .h2 := by simpa using hp
  rw [rxSteps_header hhunt]
  exact ⟨rfl, rfl⟩

/-- After the five bytes before the payload the parser's registers hold the code, the length byte and their sum. -/
theorem rxSteps_head {p : RxRegs} (h : p.rxSt = .h0) (code len : Byte) :
    rxSteps [0x57, 0xAB, 0x00, code, len] p =
      { rxSt := if len = 0 then .sum else .data, rxCmd := code, rxLen := len, rxCnt := 0,
        rxSum := checksum [0x57, 0xAB, 0x00, code, len] } := by
  rw [show [0x57, 0xAB, 0x00, code, len] = [0x57, 0xAB, 0x00] ++ [code, len] from rfl, rxSteps_append,
    rxSteps_header (.inl h)]
  rfl

/-- Before the end of the payload the parser counts and sums it. -/
theorem rxSteps_payload {bytes : List Byte} {p : RxRegs} (h : p.rxSt = .data)
    (hlen : p.rxCnt.toNat + bytes.length < p.rxLen.toNat) :
    rxSteps bytes p =
      { p with rxCnt := p.rxCnt + BitVec.ofNat 8 bytes.length, rxSum := p.rxSum + checksum bytes } := by
  induction bytes generalizing p with
  | nil => simp [rxSteps, checksum]
  | cons b bytes ih =>
    rw [List.length_cons] at hlen
    have hcnt : (p.rxCnt + 1).toNat = p.rxCnt.toNat + 1 := by bv_omega
    have hne : p.rxCnt + 1 ≠ p.rxLen := by
      intro heq
      rw [heq] at hcnt
      omega
    have hstep : rxStep b p = { p with rxCnt := p.rxCnt + 1, rxSum := p.rxSum + b } := by
      rw [rxStep_data h, if_neg hne, ← h]
    have hih := ih (p := { p with rxCnt := p.rxCnt + 1, rxSum := p.rxSum + b }) h (by simp only [hcnt]; omega)
    have hcount : p.rxCnt + BitVec.ofNat 8 (b :: bytes).length = p.rxCnt + 1 + BitVec.ofNat 8 bytes.length := by
      rw [List.length_cons, Nat.add_comm, BitVec.ofNat_add, ← add_assoc]
      rfl
    calc rxSteps (b :: bytes) p
        = rxSteps bytes (rxStep b p) := rfl
      _ = _ := by rw [hstep, hih, hcount, checksum_cons, ← add_assoc]

/-- Inside the payload the parser is in DATA, with the count and the running sum of what it has taken. -/
theorem rxSteps_head_payload {p : RxRegs} (h : p.rxSt = .h0) (code : Byte) {len : Byte} {bytes : List Byte}
    (hlen : bytes.length < len.toNat) :
    rxSteps ([0x57, 0xAB, 0x00, code, len] ++ bytes) p =
      { rxSt := .data, rxCmd := code, rxLen := len, rxCnt := BitVec.ofNat 8 bytes.length,
        rxSum := checksum ([0x57, 0xAB, 0x00, code, len] ++ bytes) } := by
  have hne : len ≠ 0 := by
    rintro rfl
    cases hlen
  have hpayload := rxSteps_payload (bytes := bytes) (p := ⟨.data, code, len, 0, checksum [0x57, 0xAB, 0x00, code, len]⟩)
    rfl (show 0 + bytes.length < len.toNat by omega)
  rw [rxSteps_append, rxSteps_head h, if_neg hne, hpayload, checksum_append]
  dsimp only
  rw [zero_add]

/-- After the whole of a frame but its checksum byte the parser is in SUM, with the code, the length byte and the running
sum. -/
theorem rxSteps_frame {p : RxRegs} {code len : Byte} {payload : List Byte} (h : p.rxSt = .h0)
    (hlen : payload.length = len.toNat) :
    rxSteps ([0x57, 0xAB, 0x00, code, len] ++ payload) p =
      { rxSt := .sum, rxCmd := code, rxLen := len, rxCnt := len,
        rxSum := checksum ([0x57, 0xAB, 0x00, code, len] ++ payload) } := by
  rcases payload.eq_nil_or_concat' with rfl | ⟨front, b, rfl⟩
  · obtain rfl : len = 0 := BitVec.eq_of_toNat_eq hlen.symm
    rw [List.append_nil, rxSteps_head h, if_pos rfl]
  · rw [List.length_append, List.length_singleton] at hlen
    have hlast : BitVec.ofNat 8 front.length + 1 = len := by bv_omega
    rw [← List.append_assoc, rxSteps_append, rxSteps_head_payload h code (by omega),
      show ∀ q, rxSteps [b] q = rxStep b q from fun _ => rfl, rxStep_data rfl]
    dsimp only
    rw [hlast, if_pos rfl, checksum_append (_ ++ front), show checksum [b] = b from BitVec.zero_add b]

/-- Inside the five bytes before the payload the parser is not in SUM. -/
theorem rxSt_ne_sum_in_head {p : RxRegs} (h : p.rxSt = .h0) (code len : Byte) {k : Nat} (hk : k < 5) :
    (rxSteps ([0x57, 0xAB, 0x00, code, len].take k) p).rxSt ≠ .sum := by
  interval_cases k <;> simp [rxSteps, rxStep, h]

/-- Before the checksum byte no byte of a frame meets the parser in SUM. -/
theorem rxSt_ne_sum_before_checksum {p : RxRegs} {code len : Byte} {payload front back : List Byte} {b : Byte}
    (h : p.rxSt = .h0) (hlen : payload.length = len.toNat)
    (hsplit : [0x57, 0xAB, 0x00, code, len] ++ payload = front ++ b :: back) : (rxSteps front p).rxSt ≠ .sum := by
  have hlength := congrArg List.length hsplit
  simp only [List.length_append, List.length_cons, List.length_nil] at hlength
  have htake : front = ([0x57, 0xAB, 0x00, code, len] ++ payload).take front.length := by rw [hsplit, List.take_left']; rfl
  by_cases hk : front.length < 5
  · rw [htake, List.take_append_of_le_length (by simp; omega)]
    exact rxSt_ne_sum_in_head h code len hk
  · rw [htake, List.take_append, List.take_of_length_le (by simp; omega)]
    rw [rxSteps_head_payload h code (by simp; omega)]
    nofun

/-- Settles O45: the parser's registers after the payload are the code, the length byte and the running sum, SUM is reached
at the checksum byte only, and the running sum less that of the head is the payload's sum, from which the decoder answers
the same instruction. -/
theorem parserReadsEveryReplyFrame : Obligations.ParserReadsEveryReplyFrame := by
  intro p code len cks payload h hlen
  refine ⟨_, rxSteps_frame h hlen, rfl, rfl, rfl, (additive_eq_checksum _).symm, fun front back b hsplit => ?_, ?_, ?_,
    fun i => ?_⟩
  · exact rxFrame_eq_none (rxSt_ne_sum_before_checksum h hlen hsplit)
  · rw [rxFrame_sum rfl, additive_eq_checksum]
  · rw [rxStep_sum rfl]
  · rw [decodeReply_frame_iff hlen, additive_eq_checksum, checksum_append, add_sub_cancel_left]

end Sys2Proof.Proofs.Replies
end

section
/-! Runs of edges (44_correlator.md, 70_reset_and_hazards.md): a packet going out byte by byte (R101), the reply wait over
its whole timer (R110, R113), the edges that an event takes (R143), and the boot sequence (R132). -/

namespace Sys2Proof.Proofs.Runs

open Sys2Proof Sys2Proof.Machine
open Sys2Proof.Proofs.Correlator
open Sys2Proof.Proofs.Edge
open Sys2Proof.Proofs.Packets
open Sys2Proof.Proofs.Replies

/-! ### Stretches of edges -/

/-- `n` edges lead from `s` to `t`, with these transfers. -/
def Stretch (n : Nat) (s t : State) (xs : List Transfers) : Prop := runEdges n s = .next t ∧ observe n s = xs

/-- No edge. -/
theorem Stretch.nil (s : State) : Stretch 0 s s [] := ⟨rfl, rfl⟩

/-- One more edge at the front of a stretch. -/
theorem Stretch.cons {n : Nat} {s u t : State} {xs : List Transfers} (h : step s = .next u) (hrest : Stretch n u t xs) :
    Stretch (n + 1) s t (s.transfers :: xs) :=
  ⟨(runEdges_succ h).trans hrest.1, by rw [observe_succ h, hrest.2]⟩

/-- One edge. -/
theorem Stretch.one {s t : State} (h : step s = .next t) : Stretch 1 s t [s.transfers] := .cons h (.nil t)

/-- One stretch after another. -/
theorem Stretch.append {m n : Nat} {s u t : State} {xs ys : List Transfers} (hfirst : Stretch m s u xs)
    (hsecond : Stretch n u t ys) : Stretch (m + n) s t (xs ++ ys) := by
  induction m generalizing s xs with
  | zero =>
    obtain ⟨hrun, rfl⟩ := hfirst
    cases hrun
    rwa [Nat.zero_add]
  | succ m ih =>
    obtain ⟨hrun, rfl⟩ := hfirst
    obtain ⟨v, hstep, hrest⟩ := runEdges_succ_next hrun
    rw [observe_succ hstep, Nat.succ_add]
    exact .cons hstep (ih ⟨hrest, rfl⟩)

/-- `t` is `s` at a later edge, with this script left: only the parser can have changed. -/
def Later (rest : List Pins) (s t : State) : Prop := ∃ rx n, t = { s with rx := rx, inputs := rest, edge := n }

/-- What an edge's control part leaves is what the edge leaves, later. -/
theorem later_afterEdge {s : State} {p : Pins} {rest : List Pins} (h : s.inputs = p :: rest) (v : State) :
    Later rest v (afterEdge s v) := by
  exact ⟨_, _, by rw [afterEdge, h, List.tail_cons]⟩

/-! ### The transfers of one edge, by control state (R14) -/

section

variable {s : State}

/-- Outside TX no byte is transferred. -/
theorem txByte_of_ne_tx (h : s.ctl.fsm ≠ .tx) : s.transfers.txByte = none := by
  have hvalid : s.outputs.txValid = false := by simp [State.outputs, h]
  unfold State.transfers
  split
  · rfl
  · simp [hvalid]

/-- Outside DONE no completion is shown. -/
theorem completion_of_ne_done (h : s.ctl.fsm ≠ .done) : s.transfers.completion = none := by
  have hvalid : s.outputs.cmplValid = false := by simp [State.outputs, h]
  unfold State.transfers
  split
  · rfl
  · simp [hvalid]

/-- In TX the byte at the index is transferred where the sink is ready. -/
theorem txByte_of_tx (hrun : Running s) (h : s.ctl.fsm = .tx) :
    s.transfers.txByte = if s.pins.txReady then some s.outputs.txData else none := by
  simp [State.transfers, hrun.not_resetting, State.outputs, h]

/-- In DONE the completion record is shown. -/
theorem completion_of_done (hrun : Running s) (h : s.ctl.fsm = .done) :
    s.transfers.completion = some (statusCode s.ctl.cmplStatus, s.ctl.cmplCmd) := by
  simp [State.transfers, hrun.not_resetting, State.outputs, h]

/-- In IDLE an event word is transferred where the host offers one. -/
theorem event_of_idle (hrun : Running s) (h : s.ctl.fsm = .idle) :
    s.transfers.event = if s.pins.evtValid then some s.pins.evtData else none := by
  simp [State.transfers, hrun.not_resetting, State.outputs, h]

end

/-! ### A packet going out (R101) -/

/-- The bytes left after the first of them. -/
theorem take_drop_succ {α : Type} {l : List α} {i : Nat} (h : i < l.length) (n : Nat) :
    (l.drop i).take (n + 1) = l[i] :: (l.drop (i + 1)).take n := by
  rw [List.drop_eq_getElem_cons h, List.take_succ_cons]

/-- Before the last byte is taken: the index has moved on by the number of ready edges and those bytes have gone out. -/
theorem stretch_tx {ps rest : List Pins} {s : State} (hl : legalConfig s.cfg = true) (htx : s.ctl.fsm = .tx)
    (hlen : s.framer.pktLen.toNat ≤ 14) (hi : s.inputs = ps ++ rest) (hps : ∀ p ∈ ps, NoReset p)
    (hcount : s.framer.txIdx.toNat + ps.countP (·.txReady) < s.framer.pktLen.toNat) :
    ∃ t xs, Stretch ps.length s t xs ∧
      Later rest { s with framer :=
        { s.framer with txIdx := s.framer.txIdx + BitVec.ofNat 4 (ps.countP (·.txReady)) } } t ∧
      xs.filterMap (·.txByte) = (s.framer.pkt.toList.drop s.framer.txIdx.toNat).take (ps.countP (·.txReady)) ∧
      xs.filterMap (·.completion) = [] := by
  induction ps generalizing s with
  | nil =>
    obtain rfl : s.inputs = rest := hi
    exact ⟨s, [], .nil s, ⟨s.rx, s.edge, by simp⟩, rfl, rfl⟩
  | cons p ps ih =>
    have hrun : Running s := running_cons hl hi (hps p List.mem_cons_self)
    have hpins : s.pins = p := pins_cons s p _ hi
    have hstep := step_tx hrun htx
    have hquiet : s.transfers.completion = none := completion_of_ne_done (by rw [htx]; nofun)
    have hbyte := txByte_of_tx hrun htx
    rw [hpins] at hbyte
    cases hready : p.txReady with
    | false =>
      rw [txEdge_stalled (hpins ▸ hready)] at hstep
      rw [List.countP_cons_of_neg (by simp [hready])] at hcount ⊢
      obtain ⟨t, xs, hstretch, hlater, hbytes, hcompl⟩ := ih (s := afterEdge s s) hl htx hlen
        (congrArg List.tail hi) (fun q hq => hps q (List.mem_cons_of_mem _ hq)) hcount
      refine ⟨t, _, .cons hstep hstretch, hlater, ?_, ?_⟩
      · rw [List.filterMap_cons_none (by simp [hbyte, hready])]
        exact hbytes
      · rw [List.filterMap_cons_none hquiet, hcompl]
    | true =>
      rw [List.countP_cons_of_pos (by simp [hready])] at hcount ⊢
      have hnext : (s.framer.txIdx + 1).toNat = s.framer.txIdx.toNat + 1 := by bv_omega
      have hlast : s.framer.txIdx + 1 ≠ s.framer.pktLen := fun heq => by
        rw [← heq] at hcount
        omega
      rw [txEdge_next (hpins ▸ hready) hlast] at hstep
      have hidx : s.framer.txIdx + 1 + BitVec.ofNat 4 (ps.countP (·.txReady)) =
          s.framer.txIdx + BitVec.ofNat 4 (ps.countP (·.txReady) + 1) := by
        rw [Nat.add_comm, BitVec.ofNat_add, ← add_assoc]
        rfl
      obtain ⟨t, xs, hstretch, hlater, hbytes, hcompl⟩ :=
        ih (s := afterEdge s { s with framer := { s.framer with txIdx := s.framer.txIdx + 1 } }) hl htx hlen
          (congrArg List.tail hi) (fun q hq => hps q (List.mem_cons_of_mem _ hq))
          (show (s.framer.txIdx + 1).toNat + _ < s.framer.pktLen.toNat by omega)
      refine ⟨t, _, .cons hstep hstretch, ?_, ?_, ?_⟩
      · rw [← hidx]
        exact hlater
      · have hlt : s.framer.txIdx.toNat < 14 := by omega
        rw [List.filterMap_cons_some (hbyte.trans (if_pos hready)), hbytes, take_drop_succ (by simpa using hlt),
          txData_of_tx htx hlt, Vector.getElem_toList]
        dsimp only [afterEdge]
        rw [hnext]
      · rw [List.filterMap_cons_none hquiet, hcompl]

/-- The registers after the edge that takes the last byte (R108). -/
def awaiting (s : State) : State :=
  { s with ctl := { s.ctl with pendCmd := s.framer.pkt[3], pendTimer := s.cfg.tReply, fsm := .wait } }

/-- The edge that takes the last byte. -/
theorem stretch_tx_last {p : Pins} {rest : List Pins} {s : State} (hl : legalConfig s.cfg = true) (htx : s.ctl.fsm = .tx)
    (hlen : s.framer.pktLen.toNat ≤ 14) (hlast : s.framer.txIdx.toNat + 1 = s.framer.pktLen.toNat)
    (hi : s.inputs = p :: rest) (hp : NoReset p) (hready : p.txReady = true) :
    ∃ t, Stretch 1 s t [s.transfers] ∧ Later rest (awaiting s) t ∧
      s.transfers.txByte = s.framer.pkt.toList[s.framer.txIdx.toNat]? ∧ s.transfers.completion = none := by
  have hrun : Running s := running_cons hl hi hp
  have hready' : s.pins.txReady = true := pins_cons s p rest hi ▸ hready
  have hlast' : s.framer.txIdx + 1 = s.framer.pktLen := by bv_omega
  have hlt : s.framer.txIdx.toNat < 14 := by omega
  have hstep := step_tx hrun htx
  rw [txEdge_last hready' hlast'] at hstep
  refine ⟨_, .one hstep, later_afterEdge hi _, ?_, completion_of_ne_done (by rw [htx]; nofun)⟩
  rw [txByte_of_tx hrun htx, if_pos hready', txData_of_tx htx hlt]
  simp [hlt]

/-- The whole packet: every byte has gone out and the wait begins. -/
theorem stretch_tx_all {ps rest : List Pins} {p : Pins} {s : State} (hl : legalConfig s.cfg = true)
    (htx : s.ctl.fsm = .tx) (hidx : s.framer.txIdx = 0) (hlen : s.framer.pktLen.toNat ≤ 14)
    (hi : s.inputs = ps ++ p :: rest) (hps : ∀ q ∈ ps, NoReset q) (hp : NoReset p) (hready : p.txReady = true)
    (hcount : ps.countP (·.txReady) + 1 = s.framer.pktLen.toNat) :
    ∃ t xs f, Stretch (ps.length + 1) s t xs ∧ Later rest (awaiting { s with framer := f }) t ∧
      f.pkt = s.framer.pkt ∧ xs.filterMap (·.txByte) = s.framer.pkt.toList.take s.framer.pktLen.toNat ∧
      xs.filterMap (·.completion) = [] := by
  have hzero : s.framer.txIdx.toNat = 0 := by rw [hidx]; rfl
  obtain ⟨u, xs, hstretch, ⟨rx, n, hu⟩, hbytes, hcompl⟩ := stretch_tx (rest := p :: rest) hl htx hlen hi hps (by omega)
  have hlast : u.framer.txIdx.toNat = ps.countP (·.txReady) := by
    rw [hu]
    show (s.framer.txIdx + BitVec.ofNat 4 (ps.countP (·.txReady))).toNat = _
    bv_omega
  have hpkt : u.framer.pkt = s.framer.pkt := by rw [hu]
  have hpktLen : u.framer.pktLen = s.framer.pktLen := by rw [hu]
  obtain ⟨t, hedge, ⟨rx', n', ht⟩, hbyte, hquiet⟩ := stretch_tx_last (s := u) (p := p) (rest := rest) (by rw [hu]; exact hl)
    (by rw [hu]; exact htx) (hpktLen ▸ hlen) (by rw [hlast, hpktLen, hcount]) (by rw [hu]) hp hready
  refine ⟨t, _, u.framer, hstretch.append hedge, ⟨rx', n', ?_⟩, hpkt, ?_, ?_⟩
  · rw [ht, awaiting, awaiting, hu]
  · have hone : [u.transfers].filterMap (·.txByte) = u.transfers.txByte.toList := by
      cases h : u.transfers.txByte <;> simp [h]
    rw [List.filterMap_append, hone, hbyte, hbytes, hzero, List.drop_zero, ← hcount, List.take_add_one, hlast, hpkt]
  · rw [List.filterMap_append, hcompl, List.filterMap_cons_none hquiet, List.filterMap_nil, List.nil_append]

/-- Settles O33: before the last byte the stretch of `stretch_tx`, from index 0; with it that of `stretch_tx_all`. -/
theorem packetGoesOutByteByByte : Obligations.PacketGoesOutByteByByte := by
  intro s ps rest hl htx hidx hlen hi hps
  have hzero : s.framer.txIdx.toNat = 0 := by rw [hidx]; rfl
  constructor
  · intro hcount
    obtain ⟨t, xs, ⟨hrun, rfl⟩, ⟨rx, n, rfl⟩, hbytes, -⟩ := stretch_tx hl htx hlen hi hps (by omega)
    refine ⟨_, hrun, rfl, rfl, rfl, rfl, ?_, by rw [hbytes, hzero, List.drop_zero]⟩
    show (s.framer.txIdx + BitVec.ofNat 4 (ps.countP (·.txReady))).toNat = _
    bv_omega
  · rintro qs p rfl hready hcount
    rw [List.append_assoc, List.singleton_append] at hi
    obtain ⟨t, xs, f, ⟨hrun, rfl⟩, ⟨rx, n, rfl⟩, hpkt, hbytes, -⟩ := stretch_tx_all hl htx hidx hlen hi
      (fun q hq => hps q (List.mem_append_left _ hq)) (hps p (by simp)) hready hcount
    rw [List.length_append, List.length_singleton]
    refine ⟨_, hrun, rfl, ?_, hbytes⟩
    simp only [awaiting, hpkt]

/-! ### The reply wait (R109, R110, R113) -/

/-- An edge that takes no reply byte keeps the parser's registers. -/
theorem afterEdge_silent {s : State} {p : Pins} {rest : List Pins} (hi : s.inputs = p :: rest) (hv : p.rxValid = false)
    (t : State) : afterEdge s t = { t with rx := s.rx, inputs := rest, edge := s.edge + 1 } := by
  have hpins : s.pins.rxValid = false := pins_cons s p rest hi ▸ hv
  simp only [afterEdge, hpins, hi, List.tail_cons, Bool.false_eq_true, if_false]

/-- With no reply byte the wait lasts as many edges as its timer says, and then ends with ReplyTimeout. -/
theorem stretch_wait_silent {ps rest : List Pins} {s : State} (hl : legalConfig s.cfg = true) (hw : s.ctl.fsm = .wait)
    (hpos : 1 ≤ s.ctl.pendTimer) (hlen : ps.length = s.ctl.pendTimer) (hi : s.inputs = ps ++ rest)
    (hps : ∀ p ∈ ps, NoReset p ∧ p.rxValid = false) :
    ∃ xs, Stretch ps.length s
        { s with
          ctl := { s.ctl with pendTimer := 1, fsm := .done, cmplStatus := .replyTimeout }
          inputs := rest
          edge := s.edge + ps.length } xs ∧
      xs.filterMap (·.txByte) = [] ∧ xs.filterMap (·.completion) = [] := by
  induction ps generalizing s with
  | nil => exact absurd hlen (by simp only [List.length_nil]; omega)
  | cons p ps ih =>
    obtain ⟨hp, hv⟩ := hps p List.mem_cons_self
    have hrun : Running s := running_cons hl hi hp
    have hpins : s.pins.rxValid = false := pins_cons s p _ hi ▸ hv
    obtain ⟨hone, hmore⟩ := waitCountsDownToTimeout s hrun hw (.inl hpins)
    have htx : s.transfers.txByte = none := txByte_of_ne_tx (by rw [hw]; nofun)
    have hcompl : s.transfers.completion = none := completion_of_ne_done (by rw [hw]; nofun)
    rw [List.length_cons] at hlen
    by_cases ht : s.ctl.pendTimer = 1
    · obtain rfl : ps = [] := List.eq_nil_of_length_eq_zero (by omega)
      have hstep := hone ht
      rw [afterEdge_silent hi hv] at hstep
      refine ⟨[s.transfers], ?_, List.filterMap_cons_none htx, List.filterMap_cons_none hcompl⟩
      have hend := Stretch.one hstep
      simp only [completedAs, ht] at hend
      exact hend
    · have hstep := hmore (by omega)
      rw [afterEdge_silent hi hv] at hstep
      obtain ⟨xs, hrest, hbytes, hcompls⟩ := ih (s := { s with
          ctl := { s.ctl with pendTimer := s.ctl.pendTimer - 1 }, inputs := ps ++ rest, edge := s.edge + 1 })
        hl hw (by dsimp only; omega) (by dsimp only; omega) rfl (fun q hq => hps q (List.mem_cons_of_mem _ hq))
      refine ⟨_, ?_, (List.filterMap_cons_none htx).trans hbytes, (List.filterMap_cons_none hcompl).trans hcompls⟩
      have hall := Stretch.cons hstep hrest
      simpa only [List.length_cons, Nat.add_assoc, Nat.add_comm 1] using hall

/-- Settles O38: the run of that stretch. -/
theorem silentChipEndsInReplyTimeout : Obligations.SilentChipEndsInReplyTimeout := by
  intro s ps rest hl hw hpos hlen hi hps
  obtain ⟨xs, ⟨hrun, -⟩, -⟩ := stretch_wait_silent hl hw hpos hlen hi hps
  exact hrun

/-- A frame's verdict is one of three statuses (R109). -/
theorem judge_mem {c : Byte} {f : Option Frame} {st : Status} (h : f.bind (judge c) = some st) :
    st ∈ [Status.ok, .deviceError, .checksumMismatch, .replyTimeout] := by
  obtain ⟨fr, -, h⟩ := Option.bind_eq_some_iff.1 h
  unfold judge at h
  repeat' split at h
  all_goals
    cases h
  all_goals simp

/-- Settles O39: every edge in WAIT ends the wait with a verdict or the timeout, or counts the timer down. -/
theorem waitEndsWithinItsTimer : Obligations.WaitEndsWithinItsTimer := by
  intro s ps
  induction ps generalizing s with
  | nil =>
    intro rest hl hw hpos hlen
    exact absurd hlen (by simp only [List.length_nil]; omega)
  | cons p ps ih =>
    intro rest hl hw hpos hlen hi hps
    have hrun : Running s := running_cons hl hi (hps p List.mem_cons_self)
    have hstep := step_wait hrun hw
    rcases waitEdge_cases s.frame s with ⟨st, hverdict, heq⟩ | ⟨-, -, heq⟩ | ⟨-, hne, heq⟩ <;> rw [heq] at hstep
    · exact ⟨1, _, le_rfl, hpos, (Stretch.one hstep).1, rfl, judge_mem hverdict, rfl, rfl, rfl⟩
    · exact ⟨1, _, le_rfl, hpos, (Stretch.one hstep).1, rfl, by simp [afterEdge], rfl, rfl, rfl⟩
    · have hdown : timerDown s.cfg s.ctl.pendTimer = s.ctl.pendTimer - 1 := if_neg (by omega)
      rw [hdown] at hstep
      obtain ⟨j, t, hlow, hhigh, hruns, hdone, hst, hcmd, hdev, hframer⟩ := ih
        (afterEdge s { s with ctl := { s.ctl with pendTimer := s.ctl.pendTimer - 1 } }) rest hl hw
        (show 1 ≤ s.ctl.pendTimer - 1 by omega) (show ps.length = s.ctl.pendTimer - 1 by simp at hlen; omega)
        (congrArg List.tail hi) (fun q hq => hps q (List.mem_cons_of_mem _ hq))
      have hhigh' : j ≤ s.ctl.pendTimer - 1 := hhigh
      exact ⟨j + 1, t, by omega, by omega, (runEdges_succ hstep).trans hruns, hdone, hst, hcmd, hdev, hframer⟩

/-! ### The edges of an event (R143) -/

/-- An edge in IDLE that takes an event word runs it. -/
theorem step_idle_event {s t : State} {p : Pins} {rest : List Pins} {i : Instr} (hrun : Running s)
    (hidle : s.ctl.fsm = .idle) (hi : s.inputs = p :: rest) (hv : p.evtValid = true)
    (hdec : decodeEvent p.evtData = .ok i) (hexec : exec i s = .next t) : step s = .next (afterEdge s t) := by
  rw [← pins_cons s p rest hi] at hv hdec
  exact stepRunsTheFetchedInstruction s t i hrun hexec (.inl ⟨hidle, hv, hdec⟩)

/-- Settles O40: the first edge runs the event, which ends in DONE where it does not send, and the second shows the
record. -/
theorem eventWithoutPacketTakesTwoEdges : Obligations.EventWithoutPacketTakesTwoEdges := by
  intro s t p q rest i hl hidle hi hp hq hv hdec hexec hntx
  have hrun : Running s := running_cons hl hi hp
  have hfirst := step_idle_event hrun hidle hi hv hdec hexec
  obtain ⟨hcfg, -, -, -, -, -, hfsm, -⟩ :=
    EventEffects.eventsLeaveTheRestUnchanged s t i (decodeEvent_isEvent hdec) hexec
  have hdone : (afterEdge s t).ctl.fsm = .done := hfsm.resolve_left hntx
  have hinputs : (afterEdge s t).inputs = q :: rest := congrArg List.tail hi
  have hrun' : Running (afterEdge s t) := running_cons (hcfg ▸ hl) hinputs hq
  have hsecond := step_done hrun' hdone
  obtain ⟨hedges, hobs⟩ := (Stretch.one hfirst).append (.one hsecond)
  rw [hobs]
  have hevent : s.transfers.event = some p.evtData := by
    rw [event_of_idle hrun hidle, pins_cons s p _ hi, if_pos hv]
  refine ⟨⟨_, hedges, rfl, rfl, congrArg List.tail hinputs⟩, ?_, ?_, ?_⟩
  · simp [hevent, transfers_event_of_ne_idle (s := afterEdge s t) (by rw [hdone]; nofun)]
  · simp [completion_of_ne_done (s := s) (by rw [hidle]; nofun), completion_of_done hrun' hdone]
    exact ⟨rfl, rfl⟩
  · simp [txByte_of_ne_tx (s := s) (by rw [hidle]; nofun),
      txByte_of_ne_tx (s := afterEdge s t) (by rw [hdone]; nofun)]

/-- An edge in DONE shows the record and leads back to IDLE. -/
theorem stretch_done {s : State} {p : Pins} {rest : List Pins} (hl : legalConfig s.cfg = true) (hdone : s.ctl.fsm = .done)
    (hi : s.inputs = p :: rest) (hp : NoReset p) :
    ∃ t, Stretch 1 s t [s.transfers] ∧ Later rest { s with ctl := { s.ctl with fsm := .idle } } t ∧
      s.transfers.txByte = none ∧
      s.transfers.completion = some (statusCode s.ctl.cmplStatus, s.ctl.cmplCmd) := by
  have hrun : Running s := running_cons hl hi hp
  exact ⟨_, .one (step_done hrun hdone), later_afterEdge hi _, txByte_of_ne_tx (by rw [hdone]; nofun),
    completion_of_done hrun hdone⟩

/-- An event that loads a packet leaves it at the front of the buffer, its first byte the next to go. -/
theorem loaded_of_exec {s t : State} {i : Instr} (hevent : isEvent i = true) (hexec : exec i s = .next t)
    (htx : t.ctl.fsm = .tx) :
    t.cfg = s.cfg ∧ t.framer.txIdx = 0 ∧ 0 < t.framer.pktLen.toNat ∧ t.framer.pktLen.toNat ≤ 14 := by
  obtain ⟨r, hr, -⟩ := exec_event hevent s
  obtain rfl := Mouse.eq_commit_of_exec hexec hr
  obtain ⟨p, hlen, hidx, -, -⟩ := Invariant.commit_sendingInv htx
  obtain ⟨hcfg, -⟩ := commit_frame s r
  rcases EventEffects.commit_framer s r with ⟨-, hzero, -⟩ | ⟨hdone, -⟩
  · exact ⟨hcfg, hzero, Nat.zero_lt_of_lt hidx, hlen ▸ EventEffects.buildPacket_length_le _ p⟩
  · cases htx.symm.trans hdone

/-- A list of three parts and a last entry, by its length. -/
theorem exists_split {α : Type} {l : List α} {m n : Nat} (h : l.length = m + n + 1) (hm : 0 < m) :
    ∃ as a bs b, l = as ++ a :: (bs ++ [b]) ∧ as.length + 1 = m ∧ bs.length = n := by
  have hne : l.drop m ≠ [] := List.ne_nil_of_length_pos (by rw [List.length_drop]; omega)
  obtain ⟨bs, b, hbs⟩ := (l.drop m).eq_nil_or_concat'.resolve_left hne
  refine ⟨l.take (m - 1), l[m - 1], bs, b, ?_, ?_, ?_⟩
  · calc l = l.take (m - 1) ++ l.drop (m - 1) := (List.take_append_drop _ l).symm
      _ = l.take (m - 1) ++ l[m - 1] :: (bs ++ [b]) := by
        rw [List.drop_eq_getElem_cons (by omega), Nat.sub_add_cancel hm, hbs]
  · rw [List.length_take]
    omega
  · have hlen := congrArg List.length hbs
    simp only [List.length_drop, List.length_append, List.length_singleton] at hlen
    omega

/-- Settles O41: one edge takes the event, `n` send the packet, `T_REPLY` wait, and one shows the record. -/
theorem packetEventWithSilentChipTimesOut : Obligations.PacketEventWithSilentChipTimesOut := by
  intro s t p ps rest i hl hidle hi hp hrx hv hdec hexec htx hlen hps
  obtain ⟨hcfg, hidx, hpos, hle⟩ := loaded_of_exec (decodeEvent_isEvent hdec) hexec htx
  have hrun : Running s := running_cons hl hi hp
  have hfirst := Stretch.one (step_idle_event hrun hidle hi hv hdec hexec)
  obtain ⟨qs, q, ws, w, rfl, hqs, hws⟩ := exists_split hlen hpos
  have hq {x : Pins} (hx : x ∈ qs ++ q :: (ws ++ [w])) : NoReset x := (hps x hx).1
  have hinputs : (afterEdge s t).inputs = qs ++ q :: (ws ++ w :: rest) := by
    simp [afterEdge, hi]
  have hcount : qs.countP (·.txReady) = qs.length :=
    List.countP_eq_length.2 fun x hx => (hps x (List.mem_append_left _ hx)).2.2
  obtain ⟨u, xs, f, hsend, ⟨rx, n, hu⟩, -, hbytes, hcompl⟩ := stretch_tx_all (s := afterEdge s t) (hcfg ▸ hl) htx hidx hle
    hinputs (fun x hx => hq (by simp [hx])) (hq (by simp)) (hps q (by simp)).2.2 (by rw [hcount]; exact hqs)
  have hucfg : u.cfg = s.cfg := by rw [hu]; exact hcfg
  have hutimer : u.ctl.pendTimer = s.cfg.tReply := by rw [hu]; exact congrArg Config.tReply hcfg
  obtain ⟨-, -, hreply, -⟩ := (legalConfig_iff s.cfg).1 hl
  obtain ⟨ys, hwait, hbytes', hcompl'⟩ := stretch_wait_silent (s := u) (ps := ws) (rest := w :: rest) (hucfg ▸ hl)
    (by rw [hu]; rfl) (by omega) (by omega) (by rw [hu])
    (fun x hx => ⟨hq (by simp [hx]), (hps x (by simp [hx])).2.1⟩)
  obtain ⟨v, hdone, ⟨rx', n', hv'⟩, hbyte'', hcompl''⟩ := stretch_done
    (s := { u with
      ctl := { u.ctl with pendTimer := 1, fsm := .done, cmplStatus := .replyTimeout }
      inputs := w :: rest
      edge := u.edge + ws.length }) (hucfg ▸ hl) rfl rfl (hq (x := w) (by simp))
  obtain ⟨hruns, hobs⟩ := ((hfirst.append hsend).append hwait).append hdone
  have hedges : 1 + (qs.length + 1) + ws.length + 1 = 2 + t.framer.pktLen.toNat + s.cfg.tReply := by omega
  rw [hedges] at hruns hobs
  rw [hobs]
  refine ⟨v, hruns, ?_, ?_, ?_, ?_, ?_, ?_⟩
  · rw [hv']
  · rw [hv', hu]
    rfl
  · rw [hv']
  · rw [hv', hu]
    rfl
  · rw [List.filterMap_append, List.filterMap_append, List.filterMap_append, hbytes, hbytes',
      List.filterMap_cons_none (txByte_of_ne_tx (by rw [hidle]; nofun)), List.filterMap_cons_none hbyte'']
    simp [afterEdge]
  · rw [List.filterMap_append, List.filterMap_append, List.filterMap_append, hcompl, hcompl',
      List.filterMap_cons_none (completion_of_ne_done (by rw [hidle]; nofun)), List.filterMap_cons_some hcompl'', hu]
    rfl

/-! ### Booting (R131, R132) -/

/-- Edges with `rst` leave the reset state and send nothing (R128). -/
theorem stretch_reset {ps rest : List Pins} {s : State} (hl : legalConfig s.cfg = true) (hne : ps ≠ [])
    (hi : s.inputs = ps ++ rest) (hps : ∀ p ∈ ps, p.rst = true) :
    ∃ n xs, Stretch ps.length s (State.resetWith s.cfg rest n) xs ∧ xs.filterMap (·.txByte) = [] := by
  induction ps generalizing s with
  | nil => exact absurd rfl hne
  | cons p ps ih =>
    have hreset : s.resetting = true := by
      rw [State.resetting, pins_cons s p _ hi, hps p List.mem_cons_self, Bool.true_or]
    have hstep := step_of_resetting hl hreset
    have htx : s.transfers.txByte = none := by rw [State.transfers, if_pos hreset]
    have hinputs : (resetEdge s).inputs = ps ++ rest := congrArg List.tail hi
    cases ps with
    | nil =>
      refine ⟨s.edge + 1, [s.transfers], ?_, List.filterMap_cons_none htx⟩
      have hend := Stretch.one hstep
      rw [resetEdge, hi] at hend
      exact hend
    | cons q qs =>
      obtain ⟨n, xs, hrest, hbytes⟩ := ih (s := resetEdge s) hl nofun hinputs
        (fun x hx => hps x (List.mem_cons_of_mem _ hx))
      exact ⟨n, _, .cons hstep hrest, (List.filterMap_cons_none htx).trans hbytes⟩

/-- Edges in IDLE without an event change only the parser and send nothing (R107). -/
theorem stretch_idle {ps rest : List Pins} {s : State} (hl : legalConfig s.cfg = true) (hidle : s.ctl.fsm = .idle)
    (hi : s.inputs = ps ++ rest) (hps : ∀ p ∈ ps, NoReset p ∧ p.evtValid = false) :
    ∃ t xs, Stretch ps.length s t xs ∧ Later rest s t ∧ xs.filterMap (·.txByte) = [] := by
  induction ps generalizing s with
  | nil =>
    obtain rfl : s.inputs = rest := hi
    exact ⟨s, [], .nil s, ⟨s.rx, s.edge, rfl⟩, rfl⟩
  | cons p ps ih =>
    obtain ⟨hp, hv⟩ := hps p List.mem_cons_self
    have hrun : Running s := running_cons hl hi hp
    have hstep := step_idle_quiet hrun hidle (pins_cons s p _ hi ▸ hv)
    obtain ⟨t, xs, hrest, hlater, hbytes⟩ := ih (s := afterEdge s s) hl hidle (congrArg List.tail hi)
      (fun q hq => hps q (List.mem_cons_of_mem _ hq))
    have htx : s.transfers.txByte = none := txByte_of_ne_tx (by rw [hidle]; nofun)
    exact ⟨t, _, .cons hstep hrest, hlater, (List.filterMap_cons_none htx).trans hbytes⟩

/-- Sent or turned away, a packet leaves the device state and the command byte that it was called for with. -/
theorem sentFrom_frame {d : Device} {cmd : Byte} {bytes : List Byte} {s t : State} (h : SentFrom d cmd bytes s t) :
    t.cfg = s.cfg ∧ t.dev = d ∧ t.ctl.cmplCmd = cmd := by
  obtain ⟨hup, hdown⟩ := h
  cases hlink : s.pins.linkUp with
  | true =>
    obtain ⟨-, heq⟩ := hup hlink
    rw [heq]
    exact ⟨rfl, rfl, rfl⟩
  | false =>
    rw [hdown hlink]
    exact ⟨rfl, rfl, rfl⟩

/-- Settles O10: the reset edges leave the reset state, the edges without an event leave it but for the parser, and RESET
then sends its packet or is turned away. -/
theorem bootSequenceSendsSoftReset : Obligations.BootSequenceSendsSoftReset := by
  intro s link resets released opened offer rest hl hboots hoffer hi
  obtain ⟨hne, hresets, -, hreleased, -, hopened⟩ := hboots
  obtain ⟨hrst, htd, hlink, hv, hword⟩ := hoffer
  have hquiet : ∀ p ∈ released ++ opened, NoReset p ∧ p.evtValid = false := by
    intro p hp
    rcases List.mem_append.1 hp with hp | hp
    · obtain ⟨h1, h2, -, h3⟩ := hreleased p hp
      exact ⟨⟨h1, h2⟩, h3⟩
    · obtain ⟨h1, h2, -, h3⟩ := hopened p hp
      exact ⟨⟨h1, h2⟩, h3⟩
  obtain ⟨n, xs, hreset, hbytes⟩ := stretch_reset (rest := (released ++ opened) ++ offer :: rest) hl hne
    (by rw [hi]; simp) (fun p hp => (hresets p hp).1)
  obtain ⟨u, ys, hidle, ⟨rx, m, hu⟩, hbytes'⟩ := stretch_idle (rest := offer :: rest)
    (s := State.resetWith s.cfg ((released ++ opened) ++ offer :: rest) n) hl rfl rfl hquiet
  have hrun : Running u := running_cons (by rw [hu]; exact hl) (by rw [hu]) ⟨hrst, htd⟩
  have hpins : u.pins = offer := pins_cons u offer rest (by rw [hu])
  have hfsm : u.ctl.fsm = .idle := by rw [hu]; rfl
  obtain ⟨t, hexec, hsent⟩ := EventEffects.resetEventClearsDeviceState u
  have hstep : step u = .next (afterEdge u t) :=
    step_idle_event hrun hfsm (by rw [hu]) hv (by rw [hword]; decide) hexec
  have hstretch := hreset.append hidle
  rw [← List.length_append, ← List.append_assoc] at hstretch
  obtain ⟨-, hobs⟩ := hstretch.append (.one hstep)
  obtain ⟨hcfg, hdev, hcmd⟩ := sentFrom_frame hsent
  obtain ⟨hup, hdown⟩ := hsent
  rw [hpins, hlink] at hup hdown
  refine ⟨u, afterEdge u t, hstretch.1, hstep, ?nothingSent, hfsm, by rw [hu]; rfl, by rw [hu]; rfl, by rw [hu]; rfl,
    by rw [hu]; rfl, by rw [afterEdge, hu]; rfl, hcfg.trans (by rw [hu]; rfl), hdev.trans (by rw [hu]; rfl), hcmd,
    ?up, ?down⟩
  case nothingSent =>
    rw [hobs, List.filterMap_append, List.filterMap_append, hbytes, hbytes',
      List.filterMap_cons_none (txByte_of_ne_tx (by rw [hfsm]; nofun))]
    rfl
  case up =>
    intro htrue
    obtain ⟨hpkt, heq⟩ := hup htrue
    refine ⟨?_, ?_, ?_, ?_⟩
    · rw [heq]; rfl
    · rw [heq]; rfl
    · rw [heq]; rfl
    · rw [show (afterEdge u t).framer = t.framer from rfl, hpkt]
      exact List.take_left' rfl
  case down =>
    intro hfalse
    rw [hdown hfalse]
    exact ⟨rfl, rfl⟩

end Sys2Proof.Proofs.Runs
end

section
/-! The end of a run (70_reset_and_hazards.md R144): an edge at a time, what the block still owes of an event taken is the
rest of its packet and its completion, and the records account for the rest. -/

namespace Sys2Proof.Proofs.EndedRun

open Sys2Proof Sys2Proof.Machine
open Sys2Proof.Proofs.Correlator
open Sys2Proof.Proofs.Edge
open Sys2Proof.Proofs.Packets
open Sys2Proof.Proofs.Invariant
open Sys2Proof.Proofs.Runs

/-- One entry of a run's records: an event word, and its completion if one was shown. -/
abbrev Record := EventWord × Option (BitVec 4 × Byte)

/-- The completion record after these records, from one before them. -/
def lastCompletion (k : BitVec 4 × Byte) (rs : List Record) : BitVec 4 × Byte := rs.foldl (fun k r => r.2.getD k) k

/-- The completion registers as the outputs show them. -/
def completionOf (s : State) : BitVec 4 × Byte := (statusCode s.ctl.cmplStatus, s.ctl.cmplCmd)

/-- A run that ends in `t` with these transfers is what its records say, from this device state and this completion record,
with some bytes of an event taken before still to send. -/
structure Accounted (c : Config) (d : Device) (owed : List Byte) (k : BitVec 4 × Byte) (rs : List Record) (t : State)
    (xs : List Transfers) : Prop where
  dev : t.dev = (runResult c d rs).1
  bytes : xs.filterMap (·.txByte) = owed ++ (runResult c d rs).2
  completion : completionOf t = lastCompletion k rs

/-- What a block in the middle of an event still has to send. -/
def owedBytes (s : State) : List Byte :=
  if s.ctl.fsm = .tx then (s.framer.pkt.toList.take s.framer.pktLen.toNat).drop s.framer.txIdx.toNat else []

/-- A busy block that comes to IDLE: the event taken is the first record, its packet's rest goes out first, and the records
after it account for the rest. In DONE the record is the one shown; else it is no link error. -/
def BusyAccounted (s : State) (e : EventWord) (t : State) (xs : List Transfers) : Prop :=
  ∃ k rs, recordsFrom (some e) xs = (e, some k) :: rs ∧ Accounted s.cfg s.dev (owedBytes s) k rs t xs ∧
    if s.ctl.fsm = .done then k = completionOf s else k.1 ≠ statusCode .transportUnavailable

/-! ### What is owed, edge by edge -/

/-- Outside TX nothing is owed. -/
theorem owedBytes_of_ne_tx {s : State} (h : s.ctl.fsm ≠ .tx) : owedBytes s = [] := if_neg h

/-- An event that calls for a packet owes all of it, unless the link was closed; any other owes nothing (R99, R100). -/
theorem owedBytes_commit {s : State} {r : EventResult} {k : BitVec 4 × Byte}
    (hk : if (commit s r).ctl.fsm = .done then k = completionOf (commit s r) else k.1 ≠ statusCode .transportUnavailable) :
    owedBytes (commit s r) = if k.1 = statusCode .transportUnavailable then [] else r.packet := by
  cases r with
  | error st => exact (ite_self _).symm
  | noSend d => exact (ite_self _).symm
  | suppress d => exact (ite_self _).symm
  | send d p =>
    rcases sendPacket_cases p.cmd (buildPacket d p) { s with dev := d } with ⟨-, heq⟩ | ⟨-, heq⟩ <;>
      rw [commit, heq] at hk ⊢
    · rw [if_neg (by nofun)] at hk
      rw [if_neg hk, owedBytes, if_pos rfl]
      exact loadPacket_take d p s.framer
    · rw [complete_fsm, if_pos rfl] at hk
      rw [hk, completionOf, complete_cmplStatus, if_pos rfl, owedBytes_of_ne_tx (by nofun)]

/-- In TX the byte at the index is owed first. -/
theorem owedBytes_of_sending {s : State} (htx : s.ctl.fsm = .tx) (h : SendingInv s) :
    owedBytes s = s.outputs.txData ::
      (s.framer.pkt.toList.take s.framer.pktLen.toNat).drop (s.framer.txIdx.toNat + 1) := by
  obtain ⟨p, hlen, hidx, -, -⟩ := h
  have hle : s.framer.pktLen.toNat ≤ 14 := hlen ▸ EventEffects.buildPacket_length_le _ p
  rw [owedBytes, if_pos htx, List.drop_eq_getElem_cons (by simp; omega), txData_of_tx htx (by omega)]
  simp

/-- What an edge in TX sends and what is owed after it is what was owed (R101). -/
theorem owedBytes_txEdge {s : State} (hrun : Running s) (htx : s.ctl.fsm = .tx) (h : SendingInv s) :
    owedBytes s = s.transfers.txByte.toList ++ owedBytes (txEdge s) := by
  rw [txByte_of_tx hrun htx]
  rcases txEdge_cases s with ⟨hready, heq⟩ | ⟨hready, hlast, heq⟩ | ⟨hready, hne, heq⟩ <;> rw [heq]
  · rw [hready]
    rfl
  · obtain ⟨p, -, hidx, -, -⟩ := id h
    have hend : s.framer.pktLen.toNat ≤ s.framer.txIdx.toNat + 1 := by bv_omega
    rw [if_pos hready, owedBytes_of_sending htx h, owedBytes_of_ne_tx (by nofun),
      List.drop_eq_nil_of_le ((List.length_take_le _ _).trans hend)]
    rfl
  · obtain ⟨p, -, hidx, -, -⟩ := id h
    have hnext : (s.framer.txIdx + 1).toNat = s.framer.txIdx.toNat + 1 := by bv_omega
    rw [if_pos hready, owedBytes_of_sending htx h, owedBytes, if_pos htx]
    dsimp only
    rw [hnext]
    rfl

/-! ### The records, edge by edge -/

/-- An edge in the middle of an event that shows no completion: what it sends was owed, and the record to come is no link
error. -/
theorem BusyAccounted.cons {s u t : State} {e : EventWord} {x : Transfers} {xs : List Transfers}
    (h : BusyAccounted u e t xs) (hevent : x.event = none) (hcompl : x.completion = none) (hcfg : u.cfg = s.cfg)
    (hdev : u.dev = s.dev) (howed : owedBytes s = x.txByte.toList ++ owedBytes u) (hs : s.ctl.fsm ≠ .done)
    (hu : u.ctl.fsm = .done → u.ctl.cmplStatus ≠ .transportUnavailable) : BusyAccounted s e t (x :: xs) := by
  obtain ⟨k, rs, hrecords, ⟨hdevEnd, hbytes, hlast⟩, hk⟩ := h
  rw [hcfg, hdev] at hdevEnd hbytes
  refine ⟨k, rs, ?_, ⟨hdevEnd, ?_, hlast⟩, ?_⟩
  · simp only [recordsFrom, hevent, hcompl, hrecords]
  · rw [howed, List.append_assoc, ← hbytes]
    cases hb : x.txByte <;> simp [hb]
  · rw [if_neg hs]
    split at hk
    · next hdone =>
      rw [hk, completionOf]
      have hne := hu hdone
      cases hst : u.ctl.cmplStatus <;> simp_all [statusCode]
    · exact hk

/-- The edge that shows the completion, after which the records go on from IDLE (R111). -/
theorem busyAccounted_of_done {s u t : State} {e : EventWord} {x : Transfers} {xs : List Transfers}
    (hdone : s.ctl.fsm = .done) (hevent : x.event = none) (hbyte : x.txByte = none)
    (hcompl : x.completion = some (completionOf s)) (hcfg : u.cfg = s.cfg) (hdev : u.dev = s.dev)
    (hrecord : completionOf u = completionOf s)
    (h : Accounted u.cfg u.dev [] (completionOf u) (records xs) t xs) : BusyAccounted s e t (x :: xs) := by
  obtain ⟨hdevEnd, hbytes, hlast⟩ := h
  rw [hcfg, hdev] at hdevEnd hbytes
  refine ⟨completionOf s, records xs, ?_, ⟨hdevEnd, ?_, hrecord ▸ hlast⟩, if_pos hdone ▸ rfl⟩
  · simp only [recordsFrom, hevent, hcompl, records]
  · rw [List.filterMap_cons_none hbyte, hbytes, owedBytes_of_ne_tx (by rw [hdone]; nofun)]

/-- An edge in IDLE without an event changes no account. -/
theorem accounted_of_quiet {s u t : State} {x : Transfers} {xs : List Transfers} (hevent : x.event = none)
    (hbyte : x.txByte = none) (hcfg : u.cfg = s.cfg) (hdev : u.dev = s.dev) (hrecord : completionOf u = completionOf s)
    (h : Accounted u.cfg u.dev [] (completionOf u) (records xs) t xs) :
    Accounted s.cfg s.dev [] (completionOf s) (records (x :: xs)) t (x :: xs) := by
  obtain ⟨hdevEnd, hbytes, hlast⟩ := h
  rw [hcfg, hdev] at hdevEnd hbytes
  have hrecords : records (x :: xs) = records xs := by simp only [records, recordsFrom, hevent]
  rw [hrecords]
  exact ⟨hdevEnd, by rw [List.filterMap_cons_none hbyte, hbytes], hrecord ▸ hlast⟩

/-- An edge in IDLE that takes an event: its record is the one that the busy block comes to, and its packet is what it then
owes, unless the record is TransportUnavailable. -/
theorem accounted_of_event {s u t : State} {w : EventWord} {r : EventResult} {x : Transfers} {xs : List Transfers}
    (hevent : x.event = some w) (hbyte : x.txByte = none) (hword : takeWord s.cfg s.dev w = (r.device s.dev, r.packet))
    (hu : u = afterEdge s (commit s r)) (h : BusyAccounted u w t xs) :
    Accounted s.cfg s.dev [] (completionOf s) (records (x :: xs)) t (x :: xs) := by
  subst hu
  obtain ⟨k, rs, hrecords, ⟨hdevEnd, hbytes, hlast⟩, hk⟩ := h
  obtain ⟨hcfg, hdev, -⟩ := commit_frame s r
  have hcfg' : (afterEdge s (commit s r)).cfg = s.cfg := hcfg
  have hdev' : (afterEdge s (commit s r)).dev = (takeWord s.cfg s.dev w).1 := hword ▸ hdev
  have howed : owedBytes (afterEdge s (commit s r)) =
      if k.1 = statusCode .transportUnavailable then [] else (takeWord s.cfg s.dev w).2 := hword ▸ owedBytes_commit hk
  rw [hcfg', hdev'] at hdevEnd hbytes
  have hall : records (x :: xs) = (w, some k) :: rs := by simp only [records, recordsFrom, hevent, hrecords]
  rw [hall]
  refine ⟨hdevEnd, ?_, hlast⟩
  rw [List.filterMap_cons_none hbyte, hbytes, howed]
  simp [runResult]

/-! ### The whole run -/

/-- A step moves the script on by one edge. -/
theorem inputs_of_step {s t : State} (h : step s = .next t) : t.inputs = s.inputs.tail := by
  rcases step_cases s with ⟨-, heq⟩ | ⟨-, -, heq⟩ | ⟨-, -, i, u, -, -, heq⟩ | ⟨-, -, -, heq⟩ <;> rw [heq] at h <;> cases h
  · rfl
  · rfl
  · rfl

/-- An edge in TX leads to TX or WAIT (R101). -/
theorem txEdge_fsm {s : State} (hw : s.ctl.fsm = .tx) : (txEdge s).ctl.fsm = .tx ∨ (txEdge s).ctl.fsm = .wait := by
  rcases txEdge_cases s with ⟨-, heq⟩ | ⟨-, -, heq⟩ | ⟨-, -, heq⟩ <;> rw [heq]
  · exact .inl hw
  · exact .inr rfl
  · exact .inl hw

/-- No edge in WAIT leads to IDLE (R109, R110). -/
theorem waitEdge_fsm_ne_idle {s : State} (f : Option Frame) (hw : s.ctl.fsm = .wait) :
    (waitEdge f s).ctl.fsm ≠ .idle := by
  rcases waitEdge_cases f s with ⟨st, -, heq⟩ | ⟨-, -, heq⟩ | ⟨-, -, heq⟩ <;> rw [heq]
  · nofun
  · nofun
  · rw [hw]
    nofun

/-- A wait ends with no link error (R109, R110). -/
theorem waitEdge_ne_transportUnavailable {s : State} {f : Option Frame} (hdone : (waitEdge f s).ctl.fsm = .done)
    (hw : s.ctl.fsm = .wait) : (waitEdge f s).ctl.cmplStatus ≠ .transportUnavailable := by
  rcases waitEdge_cases f s with ⟨st, hverdict, heq⟩ | ⟨-, -, heq⟩ | ⟨-, -, heq⟩ <;> rw [heq] at hdone ⊢
  · have hmem := judge_mem hverdict
    rintro rfl
    simp at hmem
  · nofun
  · cases hw.symm.trans hdone

/-- Every run over edges without reset that ends in IDLE is accounted for by its records, from IDLE and from the middle of
an event. -/
theorem run_accounted {ps rest : List Pins} {s t : State} (hl : legalConfig s.cfg = true) (hi : s.inputs = ps ++ rest)
    (hps : ∀ p ∈ ps, NoReset p) (hruns : runEdges ps.length s = .next t) (ht : t.ctl.fsm = .idle) :
    (s.ctl.fsm = .idle →
      Accounted s.cfg s.dev [] (completionOf s) (records (observe ps.length s)) t (observe ps.length s)) ∧
    (s.ctl.fsm ≠ .idle → (s.ctl.fsm = .tx → SendingInv s) →
      ∀ e, BusyAccounted s e t (observe ps.length s)) := by
  induction ps generalizing s with
  | nil =>
    cases hruns
    exact ⟨fun _ => ⟨rfl, rfl, rfl⟩, fun hne => absurd ht hne⟩
  | cons p ps ih =>
    have hrun : Running s := running_cons hl hi (hps p List.mem_cons_self)
    obtain ⟨u, hstep⟩ := step_next_of_legal hl
    have hcfg := configurationNeverChanges s u hstep
    rw [List.length_cons, runEdges_succ hstep] at hruns
    have hinputs : u.inputs = ps ++ rest := by rw [inputs_of_step hstep, hi]; rfl
    obtain ⟨hidle, hbusy⟩ := ih (hcfg ▸ hl) hinputs (fun q hq => hps q (List.mem_cons_of_mem _ hq)) hruns
    rw [List.length_cons, observe_succ hstep]
    constructor
    · intro hw
      have hbyte := txByte_of_ne_tx (s := s) (by rw [hw]; nofun)
      have hevent := event_of_idle hrun hw
      cases hv : s.pins.evtValid with
      | false =>
        obtain rfl := Host.Outcome.next.inj ((step_idle_quiet hrun hw hv).symm.trans hstep)
        rw [hv] at hevent
        exact accounted_of_quiet hevent hbyte rfl rfl rfl (hidle hw)
      | true =>
        obtain ⟨r, hr, hword⟩ := step_idle_takeWord hrun hw hv
        obtain rfl := Host.Outcome.next.inj (hr.symm.trans hstep)
        rw [hv] at hevent
        have hne : (commit s r).ctl.fsm ≠ .idle := by
          rcases EventEffects.commit_framer s r with ⟨h, -⟩ | ⟨h, -⟩ <;> rw [h] <;> nofun
        exact accounted_of_event hevent hbyte hword rfl (hbusy hne commit_sendingInv _)
    · intro hne hsending e
      have hevent := transfers_event_of_ne_idle hne
      cases hw : s.ctl.fsm with
      | idle => exact absurd hw hne
      | tx =>
        have hcompl := completion_of_ne_done (s := s) (by rw [hw]; nofun)
        obtain rfl := Host.Outcome.next.inj ((step_tx hrun hw).symm.trans hstep)
        obtain ⟨-, hdev, -⟩ := txEdge_frame s
        have hfsm := txEdge_fsm hw
        have hne' : (txEdge s).ctl.fsm ≠ .idle := by rcases hfsm with h | h <;> rw [h] <;> nofun
        have hnd : (txEdge s).ctl.fsm ≠ .done := by rcases hfsm with h | h <;> rw [h] <;> nofun
        exact (hbusy hne' (txEdge_sendingInv (hsending hw)) e).cons hevent hcompl hcfg hdev
          (owedBytes_txEdge hrun hw (hsending hw)) (by rw [hw]; nofun) fun hdone => absurd hdone hnd
      | wait =>
        have hcompl := completion_of_ne_done (s := s) (by rw [hw]; nofun)
        have hbyte := txByte_of_ne_tx (s := s) (by rw [hw]; nofun)
        obtain rfl := Host.Outcome.next.inj ((step_wait hrun hw).symm.trans hstep)
        obtain ⟨-, hdev, -⟩ := waitEdge_frame s.frame s
        have hntx := waitEdge_fsm_ne_tx s.frame hw
        have howed : owedBytes s = s.transfers.txByte.toList ++ owedBytes (afterEdge s (waitEdge s.frame s)) := by
          rw [hbyte, owedBytes_of_ne_tx (by rw [hw]; nofun), owedBytes_of_ne_tx (s := afterEdge s _) hntx]
          rfl
        exact (hbusy (waitEdge_fsm_ne_idle s.frame hw) (fun h => absurd h hntx) e).cons hevent hcompl hcfg hdev howed
          (by rw [hw]; nofun) fun hdone => waitEdge_ne_transportUnavailable hdone hw
      | done =>
        obtain rfl := Host.Outcome.next.inj ((step_done hrun hw).symm.trans hstep)
        exact busyAccounted_of_done hw hevent (txByte_of_ne_tx (by rw [hw]; nofun)) (completion_of_done hrun hw) rfl rfl rfl
          (hidle rfl)

/-- The completion record after records of which the last has a completion is that completion. -/
theorem lastCompletion_of_getLast {k : BitVec 4 × Byte} {rs : List Record} {r : Record} (h : rs.getLast? = some r)
    (hr : r.2.isSome = true) : r.2 = some (lastCompletion k rs) := by
  obtain ⟨front, rfl⟩ := List.getLast?_eq_some_iff.1 h
  obtain ⟨k', hk⟩ := Option.isSome_iff_exists.1 hr
  simp [lastCompletion, hk]

/-- In IDLE the outputs are the completion record's. -/
theorem outputs_of_idle {s : State} (h : s.ctl.fsm = .idle) :
    s.outputs = { evtReady := true, cmplValid := false, cmplStatus := (completionOf s).1, cmplCmd := (completionOf s).2,
                  txValid := false, txData := 0x00 } := by
  simp [State.outputs, h, completionOf]

/-- Settles O42: the account of the whole run from IDLE, where nothing is owed. -/
theorem endedRunCarriedItsPackets : Obligations.EndedRunCarriedItsPackets := by
  intro s t events ps rest hl hidle hi hps hended hruns
  obtain ⟨hevents, hcompleted, t', hruns', ht⟩ := runEnded_iff.1 hended
  obtain rfl := Host.Outcome.next.inj (hruns'.symm.trans hruns)
  obtain ⟨hdev, hbytes, hlast⟩ := (run_accounted hl hi hps hruns ht).1 hidle
  refine ⟨Prod.ext hdev hbytes, fun r hr => ?_, fun hnone => ?_⟩
  · rw [lastCompletion_of_getLast (k := completionOf s) hr (hcompleted r (List.mem_of_getLast? hr)), ← hlast]
    rfl
  · have hempty : records (observe ps.length s) = [] := List.map_eq_nil_iff.1 (hevents.trans hnone)
    rw [hempty] at hlast
    rw [outputs_of_idle ht, outputs_of_idle hidle, hlast]
    rfl

end Sys2Proof.Proofs.EndedRun
end
